-- ==== Sys2Proof/Word.lean ====
section
/-! DEFINITION. The word types of the CRC-32 table lookup engine: every value is an unsigned bit vector of a stated
width, bit 0 the least significant (00_scope.md R11). -/

namespace Sys2Proof

/-- A table entry, an accumulator, a checksum, a status register: `W = 32` bits (00_scope.md R8). -/
abbrev Word32 := BitVec 32

/-- An input byte, or an index of the TABLE space (00_scope.md R8, 20_memory.md R50). -/
abbrev Byte := BitVec 8

/-- A command word (30_encoding.md R71). -/
abbrev CmdWord := BitVec 16

/-- The `ctx` field of a command word: a context number 0..15 (30_encoding.md R73). -/
abbrev Ctx := BitVec 4

/-- The number of a status register (20_memory.md R50, STATUS space). -/
abbrev StatusNum := BitVec 3

end Sys2Proof
end

