-- ==== Sys2Proof/Config.lean ====
section
/-! DEFINITION. The fixed constants (00_scope.md R8), the implementation parameters (R9), and the free values of the
model (notes/assumptions/7.md). -/

namespace Sys2Proof

namespace Config

/-- `POLY`, the reversed polynomial (00_scope.md R8). -/
def poly : Word32 := 0xEDB88320#32

/-- `NENTRY`, the number of table entries (00_scope.md R8). -/
def nEntry : Nat := 256

/-- `ROUNDS`, rounds of division per table entry (00_scope.md R8). -/
def rounds : Nat := 8

/-- `CRC_INIT`, the accumulator at the start of each computation (00_scope.md R8). -/
def crcInit : Word32 := 0xFFFFFFFF#32

/-- `CRC_XOROUT`, the final inversion mask (00_scope.md R8). -/
def crcXorOut : Word32 := 0xFFFFFFFF#32

/-- The index mask of a fold (00_scope.md R8, row `BYTE`). -/
def indexMask : Word32 := 0x000000FF#32

/-- `CONFIG.VER`, the command-set version (00_scope.md R3, 10_state.md R40). -/
def version : BitVec 8 := 0x01#8

/-- DESIGN CHOICE (notes/assumptions/7.md), safe: what reading an accumulator that holds no value would give. No rule
reads one (10_state.md R21), and in no state a run reaches does the model; nothing is known of the value. -/
opaque absentAcc : Ctx → Word32

/-- DESIGN CHOICE (notes/assumptions/7.md), safe: what reading a table entry that holds no value would give. No rule
reads one (10_state.md R21), and in no state a run reaches does the model; nothing is known of the value. -/
opaque absentEntry : Byte → Word32

end Config

/-- `TABLE_INIT`: when the table is populated (00_scope.md R9). -/
inductive TableInit where
  /-- fully populated when reset ends (40_table_construction.md R94) -/
  | eager
  /-- populated by the first command that needs it (40_table_construction.md R95) -/
  | lazy
  deriving DecidableEq, Repr

/-- The implementation parameters (00_scope.md R9), each in the width `CONFIG` reads it in (10_state.md R40), so
that every value of the type is a legal engine. -/
structure Params where
  /-- `NCTX - 1`, 0..15 (`CONFIG.NCTXM1`) -/
  nctxM1 : BitVec 4
  /-- `TABLE_INIT` (`CONFIG.LAZY`) -/
  tableInit : TableInit
  /-- `HAS_STREAM` (`CONFIG.STREAM`) -/
  hasStream : Bool
  /-- `PIPE`, 0..255 (`CONFIG.PIPE`); timing only, no rule of the model reads it -/
  pipe : BitVec 8
  deriving DecidableEq, Repr

/-- `NCTX`, 1..16, the number of contexts (00_scope.md R9). -/
def Params.nctx (p : Params) : Nat := p.nctxM1.toNat + 1

/-- DESIGN CHOICE (notes/assumptions/1.md): the engine whose reset state the host's interface starts from. Sixteen
contexts, an eager table and the stream port, so that no command is cut off by a missing part. -/
def Params.standard : Params where
  nctxM1 := 15#4
  tableInit := .eager
  hasStream := true
  pipe := 0#8

end Sys2Proof
end

