-- ==== Sys2Proof/Machine/Table.lean ====
section
/-! DEFINITION. The TABLE space (20_memory.md R50, R51): its canonical form, reading and writing one whole entry
(00_scope.md R14), and the pure functions that fill it (R16, 40_table_construction.md R90 to R92).

The unit of the space is one 32-bit entry by index; the engine has no byte-addressed space and no byte order (R50, R53),
so a cell is an index and an entry (notes/assumptions/5.md). -/

namespace Sys2Proof.Machine

/-- The TABLE space: the entries that hold a value, with rising indexes. An index not listed holds no value
(10_state.md R21). -/
abbrev Memory := List (Nat × Word32)

/-- Every index listed is at least `lo` and below 256, each greater than the one before. -/
def Memory.wfFrom (lo : Nat) : Memory → Bool
  | [] => true
  | (k, _) :: rest => decide (lo ≤ k) && decide (k < Config.nEntry) && Memory.wfFrom (k + 1) rest

/-- The canonical form: indexes strictly rising, all in 0..255 (20_memory.md R51). -/
def Memory.wf (t : Memory) : Bool := Memory.wfFrom 0 t

/-- What index `k` holds; `none` is no value. -/
def Memory.lookup (k : Nat) : Memory → Option Word32
  | [] => none
  | (j, v) :: rest => if k = j then some v else Memory.lookup k rest

/-- Put `v` at index `k`, keeping the indexes in order. -/
def Memory.put (k : Nat) (v : Word32) : Memory → Memory
  | [] => [(k, v)]
  | (j, u) :: rest =>
    if k < j then (k, v) :: (j, u) :: rest
    else if k = j then (k, v) :: rest
    else (j, u) :: Memory.put k v rest

/-- `MemRead(i, 4)` (00_scope.md R14). -/
def Memory.read (t : Memory) (i : Byte) : Option Word32 := Memory.lookup i.toNat t

/-- `MemWrite(i, 4, v)` (00_scope.md R14). -/
def Memory.write (t : Memory) (i : Byte) (v : Word32) : Memory := Memory.put i.toNat v t

/-- `round(v)`: one round of the polynomial division (40_table_construction.md R90). -/
def crcRound (v : Word32) : Word32 :=
  if v.getLsbD 0 then (v >>> 1) ^^^ Config.poly else v >>> 1

/-- `entry(i) = round^8(zext_32(i))` (40_table_construction.md R91). -/
def entry (i : Byte) : Word32 := crcRound^[Config.rounds] (i.setWidth 32)

/-- The writes of `construct()` for the indexes `is`, the last of the list first (40_table_construction.md R92: "any
order; entries are independent"). -/
def Memory.fill (is : List Nat) (t : Memory) : Memory :=
  is.foldr (fun i u => u.write (BitVec.ofNat 8 i) (entry (BitVec.ofNat 8 i))) t

/-- All the writes of `construct()` (40_table_construction.md R92). Irreducible, so that the elaborator never unrolls
the 256 writes where it compares two states; the kernel evaluates it as any definition. -/
@[irreducible] def Memory.construct (t : Memory) : Memory := Memory.fill (List.range Config.nEntry) t

/-- The constructed table: every entry, and nothing else. -/
def Memory.full : Memory := Memory.construct []

end Sys2Proof.Machine
end

