-- ==== Sys2Proof/Syntax.lean ====
section
/-! DEFINITION. The nine commands (30_encoding.md R74), one constructor per row of the opcode table, and the beat of
the stream port (R84). Operands are the fields of the word (R73): all values of each type are encodable. -/

namespace Sys2Proof

/-- A command. `c` is a context number, `b` a data byte, `i` a table index (30_encoding.md R72, R73). -/
inductive Instr where
  /-- do nothing (43_system_and_sequencing.md R150) -/
  | nop
  /-- construct the table now, if it is not yet constructed (40_table_construction.md R96) -/
  | build
  /-- open a computation on context `c` (41_checksum_fold.md R111) -/
  | init (c : Ctx)
  /-- close the computation on context `c` and deliver the checksum (41_checksum_fold.md R113) -/
  | final (c : Ctx)
  /-- fold one byte into the accumulator of context `c` (41_checksum_fold.md R112) -/
  | fold (c : Ctx) (b : Byte)
  /-- fold the last byte of a message (42_combined_and_streaming.md R136) -/
  | foldl (c : Ctx) (b : Byte)
  /-- fold the first byte of a message (42_combined_and_streaming.md R135) -/
  | foldf (c : Ctx) (b : Byte)
  /-- fold the only byte of a one-byte message (42_combined_and_streaming.md R137) -/
  | foldfl (c : Ctx) (b : Byte)
  /-- deliver table entry `i` as an output event (40_table_construction.md R98) -/
  | trd (i : Byte)
  deriving DecidableEq, Repr

/-- One beat of the stream port: the lines `s_ctx`, `s_data`, `s_first`, `s_last` (30_encoding.md R84). -/
structure Beat where
  ctx : Ctx
  data : Byte
  first : Bool
  last : Bool
  deriving DecidableEq, Repr

end Sys2Proof
end

