-- ==== Sys2Proof/WellFormed.lean ====
section
/-! DEFINITION. Which commands an engine with given parameters can complete as far as their operands go. The ranges
of the fields (30_encoding.md R73) and the must-be-zero fields (R72) hold of every term of `Instr` by its type; what is
left to check is that a named context exists. -/

namespace Sys2Proof

/-- "it is legal only if `c < NCTX`" (30_encoding.md R73): context `c` exists on an engine with parameters `p`. -/
def Params.hasCtx (p : Params) (c : Ctx) : Bool := c.toNat < p.nctx

/-- The command names no context that the engine does not have (30_encoding.md R73, 60_exceptions.md R164). -/
def Instr.wellFormed (p : Params) : Instr → Bool
  | .nop => true
  | .build => true
  | .init c => p.hasCtx c
  | .final c => p.hasCtx c
  | .fold c _ => p.hasCtx c
  | .foldl c _ => p.hasCtx c
  | .foldf c _ => p.hasCtx c
  | .foldfl c _ => p.hasCtx c
  | .trd _ => true

end Sys2Proof
end

