-- ==== Sys2Proof/Machine/State.lean ====
section
/-! DEFINITION. The architectural state (10_state.md R20), the ways a step could stop (there are none but a
not-yet-modelled instruction), and the state at the end of reset (R43). -/

namespace Sys2Proof.Machine

/-- The kind of an output event (10_state.md R33). -/
inductive EventKind where
  /-- 0: a finished checksum -/
  | crc
  /-- 1: a table entry -/
  | tab
  deriving DecidableEq, Repr

/-- An output event `(kind, id, value)` (10_state.md R33). -/
structure OutEvent where
  kind : EventKind
  id : BitVec 8
  value : Word32
  deriving DecidableEq, Repr

/-- The four causes of a fault of the engine (60_exceptions.md R161). A fault of the engine is a NEXT state of the
model (R170), never an `Outcome.fault`. -/
inductive Cause where
  | illegalOpcode
  | reservedField
  | badContext
  | sequence
  deriving DecidableEq, Repr

/-- The state of one engine (10_state.md R20), with the host's input `prog` and the model's position `pc` in it
(R28), and the parameters, which no step writes. -/
structure State where
  /-- `NCTX`, `TABLE_INIT`, `HAS_STREAM`, `PIPE` (00_scope.md R9) -/
  params : Params
  /-- the accepted command sequence since reset (00_scope.md R18) -/
  prog : List CmdWord
  /-- the index of the next command in `prog` (10_state.md R28) -/
  pc : Nat
  /-- `T` (10_state.md R26) -/
  table : Memory
  /-- `TV`, table valid (10_state.md R26) -/
  tv : Bool
  /-- `ACC[c]`, or no value (10_state.md R21, R22) -/
  acc : Vector (Option Word32) 16
  /-- `ACT[c]` (10_state.md R23) -/
  act : Vector Bool 16
  /-- `ERR` (10_state.md R31) -/
  err : Bool
  /-- `ECAUSE` (10_state.md R31) -/
  ecause : BitVec 4
  /-- `ECMD` (10_state.md R31, R38) -/
  ecmd : CmdWord
  /-- `CMDCNT` (10_state.md R29) -/
  cmdcnt : Word32
  /-- `RESULT`, or no value (10_state.md R21, R34) -/
  result : Option Word32
  /-- `RSRC`, or no value (10_state.md R21, R35) -/
  rsrc : Option (BitVec 9)
  /-- `RV` (10_state.md R35) -/
  rv : Bool
  /-- `OUT`, oldest event first (10_state.md R33) -/
  out : List OutEvent
  deriving DecidableEq, Repr

/-- Why a step could stop with a fault: for no reason. The engine's own faults are next states (60_exceptions.md
R170), and `step` has "no hang, no stuck state, no refusal" (43_system_and_sequencing.md R154); nobody raises one, so
there is nothing safe or unsafe about it (notes/assumptions/4.md). -/
inductive Fault where
  deriving DecidableEq, Repr

/-- Why an instruction could have no meaning. -/
inductive Refusal where
  /-- Raised by an arm of `exec` whose instruction has no meaning yet (safe: nothing is proved of it). No arm does. -/
  | notModelled (mnemonic : String)
  deriving DecidableEq, Repr

/-- The state when reset ends, for an engine with parameters `p` (10_state.md R43). Under EAGER the reset process has
performed `construct()` (70_reset_and_hazards.md R191); under LAZY no entry holds a value. -/
def State.resetOf (p : Params) : State where
  params := p
  prog := []
  pc := 0
  table := match p.tableInit with
    | .eager => Memory.full
    | .lazy => []
  tv := match p.tableInit with
    | .eager => true
    | .lazy => false
  acc := Vector.replicate 16 none
  act := Vector.replicate 16 false
  err := false
  ecause := 0#4
  ecmd := 0x0000#16
  cmdcnt := 0x00000000#32
  result := none
  rsrc := none
  rv := false
  out := []

/-- The machine right after reset: the engine with the parameters that notes/assumptions/1.md names. -/
def State.reset : State := State.resetOf Params.standard

end Sys2Proof.Machine
end

