-- ==== Sys2Proof/Machine/Flags.lean ====
section
/-! DEFINITION. The codes and packed forms of flags and registers: `ECAUSE` codes (60_exceptions.md R161), `RSRC`
(10_state.md R35), and the words of `STATUS` (R37) and `CONFIG` (R40). -/

namespace Sys2Proof.Machine

/-- The code of a cause in `ECAUSE` (60_exceptions.md R161). -/
def Cause.code : Cause → BitVec 4
  | .illegalOpcode => 1#4
  | .reservedField => 2#4
  | .badContext => 3#4
  | .sequence => 4#4

/-- The `kind` bit of an event (10_state.md R33). -/
def EventKind.bit : EventKind → BitVec 1
  | .crc => 0#1
  | .tab => 1#1

/-- `RSRC` of an event: bit 8 the kind, bits 7:0 the id (10_state.md R35). -/
def rsrcOf (k : EventKind) (id : BitVec 8) : BitVec 9 := k.bit ++ id

/-- `ACT[c]` (10_state.md R23). -/
def State.actOf (s : State) (c : Ctx) : Bool := s.act[c.toNat]'c.isLt

/-- `ACTV`, `STATUS[31:16]`: bit c is `ACT[c]` for `c < NCTX`, and 0 for the others (10_state.md R37). -/
def State.actv (s : State) : BitVec 16 :=
  BitVec.ofFnLE fun c : Fin 16 => s.params.hasCtx (BitVec.ofFin c) && s.actOf (BitVec.ofFin c)

/-- A field of a 32-bit register: `v` with its bit 0 at bit `pos`, all other bits 0. -/
def fieldAt {n : Nat} (pos : Nat) (v : BitVec n) : Word32 := v.setWidth 32 <<< pos

/-- The `STATUS` register (10_state.md R37): `TV`, `ERR`, `RV`, `ECAUSE`, `ACTV`; all other bits 0. -/
def State.statusWord (s : State) : Word32 :=
  fieldAt 0 (BitVec.ofBool s.tv) ||| fieldAt 1 (BitVec.ofBool s.err) ||| fieldAt 2 (BitVec.ofBool s.rv)
    ||| fieldAt 4 s.ecause ||| fieldAt 16 s.actv

/-- `CONFIG.LAZY` (10_state.md R40). -/
def lazyBit : TableInit → Bool
  | .eager => false
  | .lazy => true

/-- The `CONFIG` register (10_state.md R40): `NCTXM1`, `LAZY`, `STREAM`, `PIPE`, `VER`; all other bits 0. -/
def configWord (p : Params) : Word32 :=
  fieldAt 0 p.nctxM1 ||| fieldAt 4 (BitVec.ofBool (lazyBit p.tableInit)) ||| fieldAt 5 (BitVec.ofBool p.hasStream)
    ||| fieldAt 8 p.pipe ||| fieldAt 24 Config.version

end Sys2Proof.Machine
end

