-- ==== Sys2Proof/Decode.lean ====
section
/-! DEFINITION. Decoding, a total function from 16-bit words (30_encoding.md R80), then encoding, its inverse on
commands, and the opcode map as match and mask (R74). -/

namespace Sys2Proof

/-- `op`, bits 15:12 (30_encoding.md R71). -/
def opField (w : CmdWord) : BitVec 4 := w.extractLsb' 12 4

/-- `ctx`, bits 11:8 (30_encoding.md R71). -/
def ctxField (w : CmdWord) : Ctx := w.extractLsb' 8 4

/-- `imm8`, bits 7:0 (30_encoding.md R71). -/
def immField (w : CmdWord) : Byte := w.extractLsb' 0 8

/-- What a word decodes to (30_encoding.md R80): a command, or one of the two ways not to be one. -/
inductive Decoded where
  | command (i : Instr)
  /-- `op` is 9..15 (30_encoding.md R76) -/
  | illegalOpcode
  /-- a must-be-zero field is not zero (30_encoding.md R77) -/
  | reservedField
  deriving DecidableEq, Repr

/-- `if` the must-be-zero bits are zero `then` the command `else ReservedField` (30_encoding.md R77, R80). -/
def whenZero (mbz : Bool) (i : Instr) : Decoded := if mbz then .command i else .reservedField

/-- `decode` of 30_encoding.md R80: it looks at the word only, never at `NCTX` or any state. -/
def decode (w : CmdWord) : Decoded :=
  let c := ctxField w
  let m := immField w
  match (opField w).toNat with
  | 0 => whenZero (c == 0#4 && m == 0#8) .nop
  | 1 => whenZero (c == 0#4 && m == 0#8) .build
  | 2 => whenZero (m == 0#8) (.init c)
  | 3 => whenZero (m == 0#8) (.final c)
  | 4 => .command (.fold c m)
  | 5 => .command (.foldl c m)
  | 6 => .command (.foldf c m)
  | 7 => .command (.foldfl c m)
  | 8 => whenZero (c == 0#4) (.trd m)
  | _ => .illegalOpcode

/-- The word with the three fields (30_encoding.md R71). -/
def packWord (op : BitVec 4) (c : Ctx) (m : Byte) : CmdWord := op ++ c ++ m

/-- The opcode number of a command (30_encoding.md R74). -/
def Instr.op : Instr → BitVec 4
  | .nop => 0#4
  | .build => 1#4
  | .init _ => 2#4
  | .final _ => 3#4
  | .fold _ _ => 4#4
  | .foldl _ _ => 5#4
  | .foldf _ _ => 6#4
  | .foldfl _ _ => 7#4
  | .trd _ => 8#4

/-- The `ctx` field of a command: its context, or the zero it must be (30_encoding.md R72). -/
def Instr.ctxBits : Instr → Ctx
  | .nop => 0#4
  | .build => 0#4
  | .init c => c
  | .final c => c
  | .fold c _ => c
  | .foldl c _ => c
  | .foldf c _ => c
  | .foldfl c _ => c
  | .trd _ => 0#4

/-- The `imm8` field of a command: its byte, its index, or the zero it must be (30_encoding.md R72). -/
def Instr.immBits : Instr → Byte
  | .nop => 0#8
  | .build => 0#8
  | .init _ => 0#8
  | .final _ => 0#8
  | .fold _ b => b
  | .foldl _ b => b
  | .foldf _ b => b
  | .foldfl _ b => b
  | .trd i => i

/-- `encode` of 30_encoding.md R80: the one word of a command. -/
def encode (i : Instr) : CmdWord := packWord i.op i.ctxBits i.immBits

/-- The `match` column of the opcode map (30_encoding.md R74). -/
def Instr.matchWord : Instr → CmdWord
  | .nop => 0x0000#16
  | .build => 0x1000#16
  | .init _ => 0x2000#16
  | .final _ => 0x3000#16
  | .fold _ _ => 0x4000#16
  | .foldl _ _ => 0x5000#16
  | .foldf _ _ => 0x6000#16
  | .foldfl _ _ => 0x7000#16
  | .trd _ => 0x8000#16

/-- The `mask` column of the opcode map (30_encoding.md R74). -/
def Instr.mask : Instr → CmdWord
  | .nop => 0xFFFF#16
  | .build => 0xFFFF#16
  | .init _ => 0xF0FF#16
  | .final _ => 0xF0FF#16
  | .fold _ _ => 0xF000#16
  | .foldl _ _ => 0xF000#16
  | .foldf _ _ => 0xF000#16
  | .foldfl _ _ => 0xF000#16
  | .trd _ => 0xFF00#16

/-- The nine rows of the opcode map as pairs of match and mask, in its order (30_encoding.md R74). -/
def opcodeRows : List (CmdWord × CmdWord) :=
  [(0x0000#16, 0xFFFF#16), (0x1000#16, 0xFFFF#16), (0x2000#16, 0xF0FF#16), (0x3000#16, 0xF0FF#16),
   (0x4000#16, 0xF000#16), (0x5000#16, 0xF000#16), (0x6000#16, 0xF000#16), (0x7000#16, 0xF000#16),
   (0x8000#16, 0xFF00#16)]

/-- The command word of a stream beat, with the bits 0, 1, first, last, ctx and data (30_encoding.md R84). -/
def Beat.word (t : Beat) : CmdWord :=
  packWord (0#1 ++ 1#1 ++ BitVec.ofBool t.first ++ BitVec.ofBool t.last) t.ctx t.data

/-- The instruction this decoder reads from the word whose low `nbits` bits are those of `w`, numbered as the opcode
table numbers them (notes/assumptions/3.md); none for a word it refuses or one longer than a command. -/
def decodeTableWord (nbits w : Nat) : Option Instr :=
  if w % 2 ^ nbits < 2 ^ 16 then
    match decode (BitVec.ofNat 16 (w % 2 ^ nbits)) with
    | .command i => some i
    | .illegalOpcode => none
    | .reservedField => none
  else none

end Sys2Proof
end

