-- ==== Sys2Proof/Machine/Crc.lean ====
section
/-! DEFINITION. The byte-folding datapath as pure functions: `fold` (00_scope.md R16, 41_checksum_fold.md R114), and
the functions a whole computation evaluates, `foldseq` and `crc32` (R116). -/

namespace Sys2Proof.Machine

/-- The index of a fold, `(crc XOR zext_32(b)) AND 0xFF` (41_checksum_fold.md R112). -/
def foldIndex (crc : Word32) (b : Byte) : Byte :=
  ((crc ^^^ b.setWidth 32) &&& Config.indexMask).setWidth 8

/-- `fold(t, crc, b) = (crc >> 8) XOR t[index]` for a table `t` given as a function (00_scope.md R16). -/
def fold (t : Byte → Word32) (crc : Word32) (b : Byte) : Word32 :=
  (crc >>> 8) ^^^ t (foldIndex crc b)

/-- The final inversion, `XOR 0xFFFFFFFF` (41_checksum_fold.md R113). -/
def invert (v : Word32) : Word32 := v ^^^ Config.crcXorOut

/-- `foldseq(a, d)` over the constructed table (41_checksum_fold.md R116). -/
def foldseq (a : Word32) : List Byte → Word32
  | [] => a
  | b :: d => foldseq (fold entry a b) d

/-- `crc32(d) = foldseq(0xFFFFFFFF, d) XOR 0xFFFFFFFF` (41_checksum_fold.md R116). -/
def crc32 (d : List Byte) : Word32 := invert (foldseq Config.crcInit d)

/-- `fold0(x) = (x >> 8) XOR T[x AND 0xFF]` over the constructed table (41_checksum_fold.md R121). -/
def fold0 (x : Word32) : Word32 := (x >>> 8) ^^^ entry (x.setWidth 8)

end Sys2Proof.Machine
end

