-- ==== Sys2Proof/Machine/Operands.lean ====
section
/-! DEFINITION. The operands of a command (30_encoding.md R72, R73) and the classes of commands the step function's
checks name (43_system_and_sequencing.md R154). -/

namespace Sys2Proof.Machine

/-- The context a command names, if it names one: shapes C and CB (30_encoding.md R72). -/
def ctxOperand : Instr → Option Ctx
  | .nop => none
  | .build => none
  | .init c => some c
  | .final c => some c
  | .fold c _ => some c
  | .foldl c _ => some c
  | .foldf c _ => some c
  | .foldfl c _ => some c
  | .trd _ => none

/-- The commands that read `ACC[c]` and need `ACT[c] = 1`: check 4 of `step` (43_system_and_sequencing.md R154). -/
def needsOpen : Instr → Bool
  | .nop => false
  | .build => false
  | .init _ => false
  | .final _ => true
  | .fold _ _ => true
  | .foldl _ _ => true
  | .foldf _ _ => false
  | .foldfl _ _ => false
  | .trd _ => false

/-- The commands that construct an absent table: action 5 of `step` (43_system_and_sequencing.md R154). -/
def wantsTable : Instr → Bool
  | .nop => false
  | .build => true
  | .init _ => false
  | .final _ => false
  | .fold _ _ => true
  | .foldl _ _ => true
  | .foldf _ _ => true
  | .foldfl _ _ => true
  | .trd _ => true

/-- The commands that produce one output event when they complete (10_state.md R33). -/
def producesEvent : Instr → Bool
  | .nop => false
  | .build => false
  | .init _ => false
  | .final _ => true
  | .fold _ _ => false
  | .foldl _ _ => true
  | .foldf _ _ => false
  | .foldfl _ _ => true
  | .trd _ => true

/-- `zext_8(c)`, the `id` of a `CRC` event (10_state.md R33). -/
def crcId (c : Ctx) : BitVec 8 := c.setWidth 8

/-- The fold-group command of the flags F (first) and L (last) (30_encoding.md R75). -/
def foldGroup (first last : Bool) (c : Ctx) (b : Byte) : Instr :=
  match first, last with
  | false, false => .fold c b
  | false, true => .foldl c b
  | true, false => .foldf c b
  | true, true => .foldfl c b

end Sys2Proof.Machine
end

