-- ==== Sys2Proof/Machine/Ops.lean ====
section
/-! DEFINITION. The named operations over the state: reads and writes of accumulators, flags and table (00_scope.md
R13, R14), `emit` (R15), construction (40_table_construction.md R92, R95), taking a fault (60_exceptions.md R170), the
way out of it (reset, R172), and the frame every command runs in (43_system_and_sequencing.md R154). -/

namespace Sys2Proof.Machine

/-- `pc <- pc + 1` (10_state.md R28). -/
def State.advancePc (s : State) : State := { s with pc := s.pc + 1 }

/-- `CMDCNT <- CMDCNT + 1 mod 2^32` (10_state.md R29). -/
def State.countDone (s : State) : State := { s with cmdcnt := s.cmdcnt + 1#32 }

/-- `ACC[c]`, or `none` where it holds no value (10_state.md R21). -/
def State.accAt (s : State) (c : Ctx) : Option Word32 := s.acc[c.toNat]'c.isLt

/-- `ACC[c]` as a command reads it. Where it holds no value, which no state a run reaches lets a command read, the
free value of notes/assumptions/7.md. -/
def State.accOf (s : State) (c : Ctx) : Word32 := (s.accAt c).getD (Config.absentAcc c)

/-- `ACC[c] <- v`, where `none` is no value (00_scope.md R13). -/
def State.writeAcc (s : State) (c : Ctx) (v : Option Word32) : State :=
  { s with acc := s.acc.set c.toNat v c.isLt }

/-- `ACT[c] <- a` (00_scope.md R13). -/
def State.writeAct (s : State) (c : Ctx) (a : Bool) : State :=
  { s with act := s.act.set c.toNat a c.isLt }

/-- `T[i]` as a command reads it. Where it holds no value, which no state a run reaches lets a command read, the free
value of notes/assumptions/7.md. -/
def State.tabRead (s : State) (i : Byte) : Word32 := (s.table.read i).getD (Config.absentEntry i)

/-- `construct()`: every entry is written, and `TV <- 1`, as one atomic action (40_table_construction.md R92). -/
def State.construct (s : State) : State := { s with table := s.table.construct, tv := true }

/-- `ensure_table()` (40_table_construction.md R95). -/
def State.ensureTable (s : State) : State := if s.tv then s else s.construct

/-- `emit(kind, id, v)` (00_scope.md R15). -/
def State.emit (s : State) (k : EventKind) (id : BitVec 8) (v : Word32) : State :=
  { s with
    out := s.out ++ [{ kind := k, id := id, value := v }]
    result := some v
    rsrc := some (rsrcOf k id)
    rv := true }

/-- Trap entry for the word `w` (60_exceptions.md R170): three writes and nothing else. Control goes nowhere, and no
mode changes. -/
def State.trap (s : State) (cause : Cause) (w : CmdWord) : State :=
  { s with err := true, ecause := cause.code, ecmd := w }

/-- The one way out of the halted state, there being no trap return (60_exceptions.md R172): `rst` leaves exactly the
reset state of an engine with the same parameters (70_reset_and_hazards.md R190, R192). -/
def State.assertReset (s : State) : State := State.resetOf s.params

/-- Check 3 of `step`: `BAD_CONTEXT` where the context does not exist (43_system_and_sequencing.md R154). -/
def State.onContext (s : State) (c : Ctx) (next : Except Cause State) : Except Cause State :=
  if s.params.hasCtx c then next else .error .badContext

/-- Check 4 of `step`: `SEQUENCE` where no computation is open (43_system_and_sequencing.md R154). -/
def State.onOpen (s : State) (c : Ctx) (next : Except Cause State) : Except Cause State :=
  if s.actOf c then next else .error .sequence

/-- The frame of every command (43_system_and_sequencing.md R154): `pc` advances first; while `ERR = 1` the word is
discarded (60_exceptions.md R171); then the command's own checks and action, which either complete, and are counted, or
raise a fault with no other effect. `w` is the word of the command, which a fault records. -/
def runCommand (w : CmdWord) (body : State → Except Cause State) (s : State) : State :=
  if s.err then s.advancePc
  else
    match body s.advancePc with
    | .ok t => t.countDone
    | .error cause => s.advancePc.trap cause w

/-- A word that is no command: check 2 of `step` (43_system_and_sequencing.md R154; 60_exceptions.md R162, R163). -/
def rejectWord (cause : Cause) (w : CmdWord) (s : State) : State :=
  runCommand w (fun _ => .error cause) s

/-- The next accepted word, if the host has offered one (10_state.md R28, 43_system_and_sequencing.md R155). -/
def State.nextWord (s : State) : Option CmdWord := s.prog[s.pc]?

/-- `prog` with `w` as the word at position `pc`. Where the sequence is shorter than that, which no state a run reaches
shows, the positions between are `NOP` words (notes/assumptions/3.md). -/
def placeWord (prog : List CmdWord) (pc : Nat) (w : CmdWord) : List CmdWord :=
  if pc < prog.length then prog.set pc w
  else prog ++ List.replicate (pc - prog.length) 0x0000#16 ++ [w]

end Sys2Proof.Machine
end

