-- ==== Sys2Proof/Machine/Checksum.lean ====
section
/-! DEFINITION. The checksum family (41_checksum_fold.md): `INIT`, `FOLD`, `FINAL`, and the data actions the stream
forms share with them. -/

namespace Sys2Proof.Machine

/-- The data action of `INIT c` (41_checksum_fold.md R111). -/
def State.openCtx (s : State) (c : Ctx) : State := (s.writeAcc c (some Config.crcInit)).writeAct c true

/-- The data action of `FOLD c, b` (41_checksum_fold.md R112). -/
def State.foldByte (s : State) (c : Ctx) (b : Byte) : State :=
  s.writeAcc c (some (fold s.tabRead (s.accOf c) b))

/-- Deliver the checksum `v` of context `c` and close the computation: the end of `FINAL`, `FOLDL`, `FOLDFL`
(41_checksum_fold.md R113). -/
def State.closeCtx (s : State) (c : Ctx) (v : Word32) : State :=
  ((s.emit .crc (crcId c) v).writeAcc c none).writeAct c false

/-- `INIT c` (41_checksum_fold.md R111). -/
def execInit (c : Ctx) (s : State) : Host.Outcome State Fault Refusal :=
  .next (runCommand (encode (.init c)) (fun t => t.onContext c (.ok (t.openCtx c))) s)

/-- `FOLD c, b` (41_checksum_fold.md R112). -/
def execFold (c : Ctx) (b : Byte) (s : State) : Host.Outcome State Fault Refusal :=
  .next (runCommand (encode (.fold c b))
    (fun t => t.onContext c (t.onOpen c (.ok (t.ensureTable.foldByte c b)))) s)

/-- `FINAL c` (41_checksum_fold.md R113). -/
def execFinal (c : Ctx) (s : State) : Host.Outcome State Fault Refusal :=
  .next (runCommand (encode (.final c))
    (fun t => t.onContext c (t.onOpen c (.ok (t.closeCtx c (invert (t.accOf c)))))) s)

end Sys2Proof.Machine
end

