-- ==== Sys2Proof/Machine/Construction.lean ====
section
/-! DEFINITION. The table family (40_table_construction.md): `BUILD` and `TRD`. -/

namespace Sys2Proof.Machine

/-- `BUILD`: construct the table if it is not yet constructed (40_table_construction.md R96). -/
def execBuild (s : State) : Host.Outcome State Fault Refusal :=
  .next (runCommand (encode .build) (fun t => .ok t.ensureTable) s)

/-- The data action of `TRD i` (40_table_construction.md R98). -/
def State.deliverEntry (s : State) (i : Byte) : State := s.emit .tab i (s.tabRead i)

/-- `TRD i`: deliver `T[i]` (40_table_construction.md R98). -/
def execTrd (i : Byte) (s : State) : Host.Outcome State Fault Refusal :=
  .next (runCommand (encode (.trd i)) (fun t => .ok (t.ensureTable.deliverEntry i)) s)

end Sys2Proof.Machine
end

