-- ==== Sys2Proof/Machine/Sequencing.lean ====
section
/-! DEFINITION. The system family (43_system_and_sequencing.md): `NOP`. -/

namespace Sys2Proof.Machine

/-- `NOP`: nothing but the counters (43_system_and_sequencing.md R150). -/
def execNop (s : State) : Host.Outcome State Fault Refusal :=
  .next (runCommand (encode .nop) (fun t => .ok t) s)

end Sys2Proof.Machine
end

