-- ==== Sys2Proof/Machine/Stream.lean ====
section
/-! DEFINITION. The stream forms of the fold (42_combined_and_streaming.md): `FOLDF`, `FOLDL`, `FOLDFL`. -/

namespace Sys2Proof.Machine

/-- The data action of `FOLDF c, b` (42_combined_and_streaming.md R135). -/
def State.openFold (s : State) (c : Ctx) (b : Byte) : State :=
  (s.writeAcc c (some (fold s.tabRead Config.crcInit b))).writeAct c true

/-- `FOLDF c, b` (42_combined_and_streaming.md R135). -/
def execFoldf (c : Ctx) (b : Byte) (s : State) : Host.Outcome State Fault Refusal :=
  .next (runCommand (encode (.foldf c b))
    (fun t => t.onContext c (.ok (t.ensureTable.openFold c b))) s)

/-- The data action of `FOLDL c, b` (42_combined_and_streaming.md R136). -/
def State.foldClose (s : State) (c : Ctx) (b : Byte) : State :=
  s.closeCtx c (invert (fold s.tabRead (s.accOf c) b))

/-- `FOLDL c, b` (42_combined_and_streaming.md R136). -/
def execFoldl (c : Ctx) (b : Byte) (s : State) : Host.Outcome State Fault Refusal :=
  .next (runCommand (encode (.foldl c b))
    (fun t => t.onContext c (t.onOpen c (.ok (t.ensureTable.foldClose c b)))) s)

/-- The data action of `FOLDFL c, b` (42_combined_and_streaming.md R137). -/
def State.openFoldClose (s : State) (c : Ctx) (b : Byte) : State :=
  s.closeCtx c (invert (fold s.tabRead Config.crcInit b))

/-- `FOLDFL c, b` (42_combined_and_streaming.md R137). -/
def execFoldfl (c : Ctx) (b : Byte) (s : State) : Host.Outcome State Fault Refusal :=
  .next (runCommand (encode (.foldfl c b))
    (fun t => t.onContext c (.ok (t.ensureTable.openFoldClose c b))) s)

end Sys2Proof.Machine
end

