-- ==== Sys2Proof/Machine/Dispatch.lean ====
section
/-! DEFINITION. One arm per command, in the order of the opcode map (30_encoding.md R74). -/

namespace Sys2Proof.Machine

def exec (i : Instr) (s : State) : Host.Outcome State Fault Refusal :=
  match i with
  | .nop => Sys2Proof.Machine.execNop s
  | .build => Sys2Proof.Machine.execBuild s
  | .init c => Sys2Proof.Machine.execInit c s
  | .final c => Sys2Proof.Machine.execFinal c s
  | .fold c b => Sys2Proof.Machine.execFold c b s
  | .foldl c b => Sys2Proof.Machine.execFoldl c b s
  | .foldf c b => Sys2Proof.Machine.execFoldf c b s
  | .foldfl c b => Sys2Proof.Machine.execFoldfl c b s
  | .trd j => Sys2Proof.Machine.execTrd j s

end Sys2Proof.Machine
end

