-- ==== Sys2Proof/Machine/Step.lean ====
section
/-! DEFINITION. The step function (43_system_and_sequencing.md R154) over the accepted command sequence (R155). -/

namespace Sys2Proof.Machine

/-- Execution of one accepted word: a word that is no command faults (check 2), a command is executed
(43_system_and_sequencing.md R154). -/
def stepWord (w : CmdWord) (s : State) : Host.Outcome State Fault Refusal :=
  match decode w with
  | .command i => exec i s
  | .illegalOpcode => .next (rejectWord .illegalOpcode w s)
  | .reservedField => .next (rejectWord .reservedField w s)

/-- One step: the next accepted word is executed. Where the host has offered none the engine idles in its current state
(43_system_and_sequencing.md R155; notes/assumptions/2.md). -/
def step (s : State) : Host.Outcome State Fault Refusal :=
  match s.nextWord with
  | none => .next s
  | some w => stepWord w s

/-- The state whose next step executes the word numbered as the opcode table numbers it: the word stands in the accepted
command sequence at position `pc` (notes/assumptions/3.md). -/
def State.withFetchWord (s : State) (nbits w : Nat) : State :=
  { s with prog := placeWord s.prog s.pc (BitVec.ofNat 16 (w % 2 ^ nbits)) }

end Sys2Proof.Machine
end

