-- ==== Sys2Proof/Machine/Pseudo.lean ====
section
/-! DEFINITION. The pseudo-instructions and their expansions (30_encoding.md R86). -/

namespace Sys2Proof.Machine

/-- The pseudo-instructions (30_encoding.md R86); `d`, `d1`, `d2` are byte lists. -/
inductive Pseudo where
  | checksum (c : Ctx) (d : List Byte)
  | checksum2 (c : Ctx) (d1 d2 : List Byte)
  | checksums (c : Ctx) (d : List Byte)
  | checksum2s (c : Ctx) (d1 d2 : List Byte)
  deriving DecidableEq, Repr

/-- The stream spelling of the bytes after the first: `FOLD` for each but the last, `FOLDL` for the last. -/
def streamTail (c : Ctx) : List Byte → List Instr
  | [] => []
  | [b] => [.foldl c b]
  | b :: b' :: d => .fold c b :: streamTail c (b' :: d)

/-- The stream spelling of a message; an empty message has none (42_combined_and_streaming.md R141). -/
def streamForm (c : Ctx) : List Byte → Option (List Instr)
  | [] => none
  | [b] => some [.foldfl c b]
  | b :: b' :: d => some (.foldf c b :: streamTail c (b' :: d))

/-- The expansion of a pseudo-instruction (30_encoding.md R86); none where the pseudo-instruction does not exist. -/
def Pseudo.expand : Pseudo → Option (List Instr)
  | .checksum c d => some (.init c :: (d.map (.fold c) ++ [.final c]))
  | .checksum2 c d1 d2 => some (.init c :: (d1.map (.fold c) ++ d2.map (.fold c) ++ [.final c]))
  | .checksums c d => streamForm c d
  | .checksum2s c d1 d2 => streamForm c (d1 ++ d2)

end Sys2Proof.Machine
end

