-- ==== Sys2Proof/Machine/Assembler.lean ====
section
/-! DEFINITION. The assembler syntax (30_encoding.md R85), over lists of characters: a printer for commands and a
reader for lines. What R85 leaves open (spaces, spellings of numbers) is notes/assumptions/12.md. -/

namespace Sys2Proof.Machine

/-- A line: nothing (blank, or a comment alone), a command, or a pseudo-instruction (30_encoding.md R85, R86). -/
inductive AsmLine where
  | blank
  | command (i : Instr)
  | pseudo (p : Pseudo)
  deriving DecidableEq, Repr

/-- The single quote. -/
def quoteChar : Char := Char.ofNat 39

/-- The double quote. -/
def dquoteChar : Char := Char.ofNat 34

/-- A space or a tab. -/
def isBlank (ch : Char) : Bool := ch.toNat == 32 || ch.toNat == 9

/-- An upper-case letter or a digit: what mnemonics are made of. -/
def isMnemonicChar (ch : Char) : Bool :=
  (65 ≤ ch.toNat && ch.toNat ≤ 90) || (48 ≤ ch.toNat && ch.toNat ≤ 57)

/-- The value of a decimal digit. -/
def decDigit (ch : Char) : Option Nat :=
  if 48 ≤ ch.toNat && ch.toNat ≤ 57 then some (ch.toNat - 48) else none

/-- The value of a hexadecimal digit, in either case. -/
def hexDigit (ch : Char) : Option Nat :=
  if 48 ≤ ch.toNat && ch.toNat ≤ 57 then some (ch.toNat - 48)
  else if 65 ≤ ch.toNat && ch.toNat ≤ 70 then some (ch.toNat - 55)
  else if 97 ≤ ch.toNat && ch.toNat ≤ 102 then some (ch.toNat - 87)
  else none

/-- Read digits of a base as far as they go, onto the value `acc`, and answer the value and the rest. -/
def readDigits (digit : Char → Option Nat) (base acc : Nat) : List Char → Nat × List Char
  | [] => (acc, [])
  | ch :: rest =>
    match digit ch with
    | some d => readDigits digit base (acc * base + d) rest
    | none => (acc, ch :: rest)

/-- Read a number of one digit or more, below `bound`. -/
def readNumber (digit : Char → Option Nat) (base bound : Nat) : List Char → Option (Nat × List Char)
  | [] => none
  | ch :: rest =>
    match digit ch with
    | none => none
    | some d =>
      let r := readDigits digit base d rest
      if r.1 < bound then some r else none

/-- Drop leading blanks. -/
def skipBlanks (cs : List Char) : List Char := cs.dropWhile isBlank

/-- A context: a decimal number 0..15 (30_encoding.md R85). -/
def readCtx (cs : List Char) : Option (Ctx × List Char) :=
  (readNumber decDigit 10 16 cs).map fun r => (BitVec.ofNat 4 r.1, r.2)

/-- An index: a decimal number 0..255 or a hexadecimal one (30_encoding.md R85). -/
def readIndex (cs : List Char) : Option (Byte × List Char) :=
  match cs with
  | '0' :: 'x' :: rest => (readNumber hexDigit 16 256 rest).map fun r => (BitVec.ofNat 8 r.1, r.2)
  | _ => (readNumber decDigit 10 256 cs).map fun r => (BitVec.ofNat 8 r.1, r.2)

/-- The byte of an ASCII character (30_encoding.md R85). -/
def asciiByte (ch : Char) : Option Byte := if ch.toNat < 128 then some (BitVec.ofNat 8 ch.toNat) else none

/-- A data byte: a number as for an index, or one ASCII character in single quotes (30_encoding.md R85). DESIGN CHOICE
(notes/assumptions/12.md), safe: a `;` between single quotes is the byte 0x3B and starts no comment. -/
def readByte (cs : List Char) : Option (Byte × List Char) :=
  match cs with
  | q :: ch :: q' :: rest =>
    if q == quoteChar && q' == quoteChar then (asciiByte ch).map fun b => (b, rest) else readIndex cs
  | _ => readIndex cs

/-- A comma, with blanks around it. -/
def readComma (cs : List Char) : Option (List Char) :=
  match skipBlanks cs with
  | ',' :: rest => some (skipBlanks rest)
  | _ => none

/-- What may stand after the operands: blanks, and a comment from `;` on (30_encoding.md R85). -/
def atEnd (cs : List Char) : Bool :=
  match skipBlanks cs with
  | [] => true
  | ch :: _ => ch == ';'

/-- The characters of a string up to its closing double quote, as ASCII bytes (30_encoding.md R85). DESIGN CHOICE
(notes/assumptions/12.md), safe: a `;` inside a string is the byte 0x3B and starts no comment. -/
def readString : List Char → Option (List Byte × List Char)
  | [] => none
  | ch :: rest =>
    if ch == dquoteChar then some ([], rest)
    else
      match asciiByte ch, readString rest with
      | some b, some r => some (b :: r.1, r.2)
      | _, _ => none

/-- The bytes after the first of a bracketed list, up to the closing bracket; `fuel` bounds their number. -/
def readListTail : Nat → List Char → Option (List Byte × List Char)
  | 0, _ => none
  | fuel + 1, cs =>
    match skipBlanks cs with
    | ']' :: rest => some ([], rest)
    | ',' :: rest =>
      match readByte (skipBlanks rest) with
      | none => none
      | some r => (readListTail fuel r.2).map fun q => (r.1 :: q.1, q.2)
    | _ => none

/-- A byte list: a string in double quotes or bytes in brackets (30_encoding.md R85). -/
def readBytes (cs : List Char) : Option (List Byte × List Char) :=
  match cs with
  | '[' :: rest =>
    match skipBlanks rest with
    | ']' :: rest' => some ([], rest')
    | inner =>
      match readByte inner with
      | none => none
      | some r => (readListTail (r.2.length + 1) r.2).map fun q => (r.1 :: q.1, q.2)
  | ch :: rest => if ch == dquoteChar then readString rest else none
  | [] => none

/-- A line with no operand. -/
def operandsN (l : AsmLine) (cs : List Char) : Option AsmLine := if atEnd cs then some l else none

/-- A line with a context. -/
def operandsC (k : Ctx → AsmLine) (cs : List Char) : Option AsmLine :=
  match readCtx cs with
  | some r => operandsN (k r.1) r.2
  | none => none

/-- A line with an index. -/
def operandsI (k : Byte → AsmLine) (cs : List Char) : Option AsmLine :=
  match readIndex cs with
  | some r => operandsN (k r.1) r.2
  | none => none

/-- A context, a comma, and then the rest of the operands. -/
def operandsCtxThen (k : Ctx → List Char → Option AsmLine) (cs : List Char) : Option AsmLine :=
  match readCtx cs with
  | some r => (readComma r.2).bind (k r.1)
  | none => none

/-- A line with a context and a byte. -/
def operandsCB (k : Ctx → Byte → AsmLine) : List Char → Option AsmLine :=
  operandsCtxThen fun c cs =>
    match readByte cs with
    | some r => operandsN (k c r.1) r.2
    | none => none

/-- A line with a context and a byte list. -/
def operandsCL (k : Ctx → List Byte → AsmLine) : List Char → Option AsmLine :=
  operandsCtxThen fun c cs =>
    match readBytes cs with
    | some r => operandsN (k c r.1) r.2
    | none => none

/-- A line with a context and two byte lists. -/
def operandsCLL (k : Ctx → List Byte → List Byte → AsmLine) : List Char → Option AsmLine :=
  operandsCtxThen fun c cs =>
    match readBytes cs with
    | none => none
    | some r =>
      match (readComma r.2).bind readBytes with
      | some q => operandsN (k c r.1 q.1) q.2
      | none => none

/-- The operands of each mnemonic (30_encoding.md R85, R86). -/
def readOperands (mnemonic : List Char) (cs : List Char) : Option AsmLine :=
  match mnemonic with
  | ['N', 'O', 'P'] => operandsN (.command .nop) cs
  | ['B', 'U', 'I', 'L', 'D'] => operandsN (.command .build) cs
  | ['I', 'N', 'I', 'T'] => operandsC (fun c => .command (.init c)) cs
  | ['F', 'I', 'N', 'A', 'L'] => operandsC (fun c => .command (.final c)) cs
  | ['F', 'O', 'L', 'D'] => operandsCB (fun c b => .command (.fold c b)) cs
  | ['F', 'O', 'L', 'D', 'L'] => operandsCB (fun c b => .command (.foldl c b)) cs
  | ['F', 'O', 'L', 'D', 'F'] => operandsCB (fun c b => .command (.foldf c b)) cs
  | ['F', 'O', 'L', 'D', 'F', 'L'] => operandsCB (fun c b => .command (.foldfl c b)) cs
  | ['T', 'R', 'D'] => operandsI (fun i => .command (.trd i)) cs
  | ['C', 'H', 'E', 'C', 'K', 'S', 'U', 'M'] => operandsCL (fun c d => .pseudo (.checksum c d)) cs
  | ['C', 'H', 'E', 'C', 'K', 'S', 'U', 'M', '2'] => operandsCLL (fun c d e => .pseudo (.checksum2 c d e)) cs
  | ['C', 'H', 'E', 'C', 'K', 'S', 'U', 'M', 'S'] => operandsCL (fun c d => .pseudo (.checksums c d)) cs
  | ['C', 'H', 'E', 'C', 'K', 'S', 'U', 'M', '2', 'S'] => operandsCLL (fun c d e => .pseudo (.checksum2s c d e)) cs
  | _ => none

/-- One line of assembler text (30_encoding.md R85); none for text that is no line. -/
def readLine (cs : List Char) : Option AsmLine :=
  if atEnd cs then some .blank
  else
    let line := skipBlanks cs
    readOperands (line.takeWhile isMnemonicChar) (skipBlanks (line.dropWhile isMnemonicChar))

/-- The commands of a line: none of a blank one, one of a command, the expansion of a pseudo-instruction. -/
def AsmLine.commands : AsmLine → Option (List Instr)
  | .blank => some []
  | .command i => some [i]
  | .pseudo p => p.expand

/-- The character of a digit below 16, in capitals. -/
def digitChar (n : Nat) : Char := if n < 10 then Char.ofNat (48 + n) else Char.ofNat (55 + n)

/-- A context as a decimal number (30_encoding.md R85). -/
def printCtx (c : Ctx) : List Char :=
  if c.toNat < 10 then [digitChar c.toNat] else ['1', digitChar (c.toNat - 10)]

/-- A byte or an index as `0x` and two digits (30_encoding.md R85). -/
def printByte (b : Byte) : List Char := ['0', 'x', digitChar (b.toNat / 16), digitChar (b.toNat % 16)]

/-- The mnemonic of a command (30_encoding.md R74). -/
def mnemonicOf : Instr → List Char
  | .nop => ['N', 'O', 'P']
  | .build => ['B', 'U', 'I', 'L', 'D']
  | .init _ => ['I', 'N', 'I', 'T']
  | .final _ => ['F', 'I', 'N', 'A', 'L']
  | .fold _ _ => ['F', 'O', 'L', 'D']
  | .foldl _ _ => ['F', 'O', 'L', 'D', 'L']
  | .foldf _ _ => ['F', 'O', 'L', 'D', 'F']
  | .foldfl _ _ => ['F', 'O', 'L', 'D', 'F', 'L']
  | .trd _ => ['T', 'R', 'D']

/-- The operands of a command as text, each operand but the first after a comma (30_encoding.md R85). -/
def operandText : Instr → List Char
  | .nop => []
  | .build => []
  | .init c => ' ' :: printCtx c
  | .final c => ' ' :: printCtx c
  | .fold c b => ' ' :: (printCtx c ++ [',', ' '] ++ printByte b)
  | .foldl c b => ' ' :: (printCtx c ++ [',', ' '] ++ printByte b)
  | .foldf c b => ' ' :: (printCtx c ++ [',', ' '] ++ printByte b)
  | .foldfl c b => ' ' :: (printCtx c ++ [',', ' '] ++ printByte b)
  | .trd i => ' ' :: printByte i

/-- A command in assembler syntax (30_encoding.md R85). -/
def printInstr (i : Instr) : List Char := mnemonicOf i ++ operandText i

end Sys2Proof.Machine
end

