-- ==== Sys2Proof/Machine/StatusPort.lean ====
section
/-! DEFINITION. The status port: eight read-only registers (10_state.md R32, R36 to R40), functions of the state alone
but for the value of `RESULT` and `RSRC` while `RV = 0`, which is free (93_implementation_defined.md U1). A read is no
step: it has no side effect on any state (R32), so there is no next state to give. -/

namespace Sys2Proof.Machine

/-- `RESULT` as a reader sees it; `draw` is the free value it sees while there is no event (10_state.md R34, R21;
notes/assumptions/8.md). -/
def State.readResult (s : State) (draw : Word32) : Word32 :=
  if s.rv then s.result.getD draw else draw

/-- `RSRC` as a reader sees it; `draw` is the free value it sees while there is no event (10_state.md R35, R21;
notes/assumptions/8.md). -/
def State.readRsrc (s : State) (draw : BitVec 9) : BitVec 9 :=
  if s.rv then s.rsrc.getD draw else draw

/-- Status register `n` (10_state.md R36). `draw` is the free value of registers 1 and 2 while `RV = 0`; the reserved
bits of register 2 read 0 in every state (R39; notes/assumptions/8.md). -/
def State.statusRead (s : State) (n : StatusNum) (draw : Word32) : Word32 :=
  match n.toNat with
  | 0 => s.statusWord
  | 1 => s.readResult draw
  | 2 => (s.readRsrc (draw.setWidth 9)).setWidth 32
  | 3 => s.ecmd.setWidth 32
  | 4 => s.cmdcnt
  | 5 => configWord s.params
  | _ => 0x00000000#32

end Sys2Proof.Machine
end

