-- ==== Sys2Proof/Machine/Ports.lean ====
section
/-! DEFINITION. What the host does to the engine and sees of it, besides the status port (43_system_and_sequencing.md
R156): the command port (30_encoding.md R81), the stream port (R84), the result port (R82), the pins `rst` and `err`
(R87). The reset pin is `State.assertReset` of Machine/Ops.lean. -/

namespace Sys2Proof.Machine

/-- A word is accepted on the command port: it joins the accepted command sequence (30_encoding.md R81). -/
def State.acceptWord (s : State) (w : CmdWord) : State := { s with prog := s.prog ++ [w] }

/-- A beat is accepted on the stream port, where the engine has one: it is exactly its command word
(42_combined_and_streaming.md R138). -/
def State.acceptBeat (s : State) (t : Beat) : Option State :=
  if s.params.hasStream then some (s.acceptWord t.word) else none

/-- What the host offers on the two ports at one moment. -/
structure Offer where
  cmd : Option CmdWord
  beat : Option Beat
  deriving DecidableEq, Repr

/-- Accept at most one transfer, the command port first (42_combined_and_streaming.md R139), and answer with what the
host still offers. A beat offered to an engine without a stream port is never taken. -/
def State.acceptOffer (s : State) (o : Offer) : State × Offer :=
  match o.cmd with
  | some w => (s.acceptWord w, { o with cmd := none })
  | none =>
    match o.beat.bind s.acceptBeat with
    | some t => (t, { o with beat := none })
    | none => (s, o)

/-- The pin `err` (30_encoding.md R87, 60_exceptions.md R167). -/
def State.errPin (s : State) : Bool := s.err

/-- The line `err` while the pin `rst` is at `rst`: 0 in reset (70_reset_and_hazards.md R190). -/
def State.errLine (s : State) (rst : Bool) : Bool := !rst && s.errPin

/-- Acceptance with the pin `rst`: in reset nothing is accepted, and what the host offers stays offered
(70_reset_and_hazards.md R190, R192). -/
def State.acceptUnder (s : State) (rst : Bool) (o : Offer) : State × Offer :=
  if rst then (s.assertReset, o) else s.acceptOffer o

/-- The output event a step from `s` to `t` has produced, if any: the newest element of `OUT` where `OUT` has grown. -/
def newEvent (s t : State) : Option OutEvent :=
  if s.out.length < t.out.length then t.out.getLast? else none

/-- The lines of the result port (30_encoding.md R82). -/
structure ResultPort where
  valid : Bool
  value : Word32
  src : BitVec 9
  deriving DecidableEq, Repr

/-- The result port when a step has led from `s` to `t`: the strobe shows whether it produced an event, `res_value` and
`res_src` always show `RESULT` and `RSRC` (30_encoding.md R82). -/
def resultPort (s t : State) (drawValue : Word32) (drawSrc : BitVec 9) : ResultPort where
  valid := (newEvent s t).isSome
  value := t.readResult drawValue
  src := t.readRsrc drawSrc

end Sys2Proof.Machine
end

