-- ==== Sys2Proof/Machine/Run.lean ====
section
/-! DEFINITION. The run and its end (43_system_and_sequencing.md R155). -/

namespace Sys2Proof.Machine

/-- `k` steps of the machine. -/
def run (k : Nat) (s : State) : Host.Outcome State Fault Refusal := Host.Core.run Sys2Proof.core k s

/-- A step with the pin `rst`: a reset asserted together with a command wins, the command has no effect and produces no
event (70_reset_and_hazards.md R192, 60_exceptions.md R168; notes/assumptions/11.md). -/
def stepUnder (rst : Bool) (s : State) : Host.Outcome State Fault Refusal :=
  if rst then .next s.assertReset else step s

/-- The run has ended: the host has offered no further command (43_system_and_sequencing.md R155). -/
def State.ended (s : State) : Bool := s.pc == s.prog.length

/-- The run is good: ended without a fault (43_system_and_sequencing.md R155). -/
def State.good (s : State) : Bool := s.ended && !s.err

/-- The run is complete: good, with no computation left open (43_system_and_sequencing.md R155). -/
def State.complete (s : State) : Bool :=
  s.good && (List.finRange 16).all fun c => !(s.params.hasCtx (BitVec.ofFin c) && s.actOf (BitVec.ofFin c))

/-- The result of the run: the final state and `OUT` (43_system_and_sequencing.md R155). -/
def State.runResult (s : State) : State × List OutEvent := (s, s.out)

end Sys2Proof.Machine
end

