-- ==== Sys2Proof/Safety.lean ====
section
/-! DEFINITION. What claims about runs are stated in: the invariants of 10_state.md R44, what a recorded fault says
(60_exceptions.md R161), the history of a run as a function of its accepted words (R44 item 4, 41_checksum_fold.md
R116), and the relations between two runs (00_scope.md R10, 20_memory.md R59). -/

namespace Sys2Proof.Machine

/-- The invariants of 10_state.md R44 (items 1 to 3 and 5 to 8; item 4 is `State.History`), with two of the model's own
representation: contexts that do not exist hold nothing (notes/assumptions/6.md), and `pc` is a position in the accepted
sequence (R28). -/
structure State.Inv (s : State) : Prop where
  table_canonical : s.table.wf = true
  table_valid : s.tv = true → ∀ i : Byte, s.table.read i = some (entry i)
  table_absent : s.tv = false → ∀ i : Byte, s.table.read i = none
  eager_valid : s.params.tableInit = .eager → s.tv = true
  act_iff_acc : ∀ c : Ctx, s.params.hasCtx c = true → (s.actOf c = true ↔ (s.accAt c).isSome = true)
  no_such_ctx : ∀ c : Ctx, s.params.hasCtx c = false → s.accAt c = none ∧ s.actOf c = false
  err_iff_cause : s.err = false ↔ s.ecause = 0#4
  no_err_no_cmd : s.err = false → s.ecmd = 0x0000#16
  cause_range : s.err = true → 1 ≤ s.ecause.toNat ∧ s.ecause.toNat ≤ 4
  rv_iff_out : s.rv = false ↔ s.out = []
  no_event_no_result : s.rv = false → s.result = none ∧ s.rsrc = none
  last_event : s.rv = true → ∃ e, s.out.getLast? = some e ∧ s.result = some e.value ∧ s.rsrc = some (rsrcOf e.kind e.id)
  count_is_pc : s.err = false → s.cmdcnt = BitVec.ofNat 32 s.pc
  event_ctx : ∀ e ∈ s.out, e.kind = .crc → e.id.toNat < s.params.nctx
  pc_in_prog : s.pc ≤ s.prog.length

/-- What `ECAUSE` and `ECMD` say of the fault they record (60_exceptions.md R161), in the frozen state of R171. -/
def State.FaultRecorded (s : State) : Prop :=
  s.err = true →
    (s.ecause = 1#4 ∧ decode s.ecmd = .illegalOpcode) ∨
    (s.ecause = 2#4 ∧ decode s.ecmd = .reservedField) ∨
    (s.ecause = 3#4 ∧ ∃ i c, decode s.ecmd = .command i ∧ ctxOperand i = some c ∧ s.params.hasCtx c = false) ∨
    (s.ecause = 4#4 ∧ ∃ i c, decode s.ecmd = .command i ∧ ctxOperand i = some c ∧ needsOpen i = true ∧
      s.params.hasCtx c = true ∧ s.actOf c = false)

/-- The bytes folded on context `c` since its open computation began, after one more completed word: none while no
computation is open (10_state.md R44 item 4, R25). -/
def messageAfter (c : Ctx) (m : Option (List Byte)) (w : CmdWord) : Option (List Byte) :=
  match decode w with
  | .command (.init c') => if c' = c then some [] else m
  | .command (.fold c' b) => if c' = c then m.map (· ++ [b]) else m
  | .command (.foldf c' b) => if c' = c then some [b] else m
  | .command (.final c') => if c' = c then none else m
  | .command (.foldl c' _) => if c' = c then none else m
  | .command (.foldfl c' _) => if c' = c then none else m
  | _ => m

/-- The bytes of the computation open on context `c` after the completed words `ws` (10_state.md R44 item 4). -/
def openMessage (c : Ctx) (ws : List CmdWord) : Option (List Byte) := ws.foldl (messageAfter c) none

/-- The output event of a word completed after the words `done`: a checksum of the bytes of the computation it closes,
or a table entry (10_state.md R33, 41_checksum_fold.md R116). -/
def eventOf (done : List CmdWord) (w : CmdWord) : Option OutEvent :=
  match decode w with
  | .command (.final c) => (openMessage c done).map fun d => { kind := .crc, id := crcId c, value := crc32 d }
  | .command (.foldl c b) =>
    (openMessage c done).map fun d => { kind := .crc, id := crcId c, value := crc32 (d ++ [b]) }
  | .command (.foldfl c b) => some { kind := .crc, id := crcId c, value := crc32 [b] }
  | .command (.trd i) => some { kind := .tab, id := i, value := entry i }
  | _ => none

/-- The output events of the words `ws` completed one after another after the words `done`. -/
def eventsFrom (done : List CmdWord) : List CmdWord → List OutEvent
  | [] => []
  | w :: ws => (eventOf done w).toList ++ eventsFrom (done ++ [w]) ws

/-- The state is what the spec's function of the accepted words says: with `n` words completed, the accumulator of each
context holds the fold of its open message (10_state.md R44 item 4), `OUT` is the list of their events, `CMDCNT` counts
them, and while `ERR = 1` the next word is the one that faulted (R29, R31). -/
def State.History (s : State) : Prop :=
  ∃ n, n ≤ s.pc ∧ n ≤ s.prog.length ∧
    (s.err = false → n = s.pc) ∧
    (s.err = true → s.prog[n]? = some s.ecmd) ∧
    s.cmdcnt = BitVec.ofNat 32 n ∧
    s.out = eventsFrom [] (s.prog.take n) ∧
    ∀ c : Ctx, s.params.hasCtx c = true →
      s.accAt c = (openMessage c (s.prog.take n)).map (foldseq Config.crcInit)

/-- One row of the table of 41_checksum_fold.md R119: folding `b` onto `before` reads entry `index`, which is `t`, shifts
to `shifted`, and leaves `after`. -/
def FoldsAs (b : Byte) (before : Word32) (index : Byte) (t shifted after : Word32) : Prop :=
  foldIndex before b = index ∧ entry index = t ∧ before >>> 8 = shifted ∧ fold entry before b = after

/-- The word is a command that names context `c`. -/
def namesCtx (c : Ctx) (w : CmdWord) : Bool :=
  match decode w with
  | .command i => ctxOperand i == some c
  | .illegalOpcode => false
  | .reservedField => false

/-- The event is a checksum of context `c`. -/
def isCrcOf (c : Ctx) (e : OutEvent) : Bool := e.kind == .crc && e.id == crcId c

/-- Two engines that agree in everything but what `TABLE_INIT`, `HAS_STREAM` and `PIPE` decide (00_scope.md R10). -/
structure SameResults (s t : State) : Prop where
  nctx : s.params.nctxM1 = t.params.nctxM1
  prog : s.prog = t.prog
  pc : s.pc = t.pc
  acc : s.acc = t.acc
  act : s.act = t.act
  err : s.err = t.err
  ecause : s.ecause = t.ecause
  ecmd : s.ecmd = t.ecmd
  cmdcnt : s.cmdcnt = t.cmdcnt
  result : s.result = t.result
  rsrc : s.rsrc = t.rsrc
  rv : s.rv = t.rv
  out : s.out = t.out

/-- What the fused-form law compares: everything but `pc`, `CMDCNT` and `ECMD` (42_combined_and_streaming.md R140). -/
structure AgreesFused (s t : State) : Prop where
  params : s.params = t.params
  prog : s.prog = t.prog
  table : s.table = t.table
  tv : s.tv = t.tv
  acc : s.acc = t.acc
  act : s.act = t.act
  err : s.err = t.err
  ecause : s.ecause = t.ecause
  result : s.result = t.result
  rsrc : s.rsrc = t.rsrc
  rv : s.rv = t.rv
  out : s.out = t.out

end Sys2Proof.Machine
end

