-- ==== Sys2Proof/Certificates/Slice0/Obligations.lean ====
section
/-! DEFINITION. The statements for the provers. Each docstring names the rule of spec/ it formalises. A next state is
written out as a record update of the state before, so that it says at once what is written and that nothing else is. -/

open Sys2Proof Sys2Proof.Machine

/-! ## The step -/

/-- 43_system_and_sequencing.md R154: a word that decodes to a command is executed by that command's meaning. Whatever
`step` adds around `exec` (the advance of `pc`, the discarding of words while `ERR = 1`, the count) is inside `exec`. -/
def Obligations.StepRunsDecodedCommand : Prop :=
  ∀ (s : State) (w : CmdWord) (i : Instr), s.nextWord = some w → decode w = .command i → step s = exec i s

/-- 43_system_and_sequencing.md R155: where the host has offered no further command the engine idles in its current
state, and that is when `pc` has reached the end of the sequence. That idling is a step to the same state is the model's
reading (notes/assumptions/2.md). -/
def Obligations.StepIdlesWithoutCommand : Prop :=
  ∀ s : State, (s.nextWord = none ↔ s.prog.length ≤ s.pc) ∧ (s.nextWord = none → step s = .next s)

/-- 43_system_and_sequencing.md R154: the step function has no outcome but a next state, and produces at most one
output event. -/
def Obligations.StepIsTotalWithAtMostOneEvent : Prop :=
  ∀ s : State, ∃ t new, step s = .next t ∧ t.out = s.out ++ new ∧ new.length ≤ 1

/-- 10_state.md R28: `pc` starts at 0, every accepted command advances it by exactly 1 whether or not it faults or is
discarded, nothing else moves it, and the run has ended when it equals the length of the sequence. That a step which takes no word
leaves `pc` is the model's reading of 43_system_and_sequencing.md R155 (notes/assumptions/2.md). -/
def Obligations.EveryAcceptedCommandAdvancesPc : Prop :=
  (∀ p : Params, (State.resetOf p).pc = 0) ∧
  (∀ (s t : State), step s = .next t →
    t.pc = if s.nextWord.isSome then s.pc + 1 else s.pc) ∧
  (∀ s : State, s.ended = true ↔ s.pc = s.prog.length)

/-- 43_system_and_sequencing.md R154, 60_exceptions.md R168: the order of the checks. The fault a word raises is decided
by the first check that fails; a word that passes all of them completes and leaves `ERR` and `ECAUSE` 0. -/
def Obligations.ChecksAreMadeInOrder : Prop :=
  ∀ (s t : State) (w : CmdWord), s.err = false → s.ecause = 0#4 → s.nextWord = some w → step s = .next t →
    t.ecause =
      (match decode w with
       | .illegalOpcode => 1#4
       | .reservedField => 2#4
       | .command i =>
         match ctxOperand i with
         | none => 0#4
         | some c =>
           if s.params.nctx ≤ c.toNat then 3#4
           else if needsOpen i && !s.actOf c then 4#4
           else 0#4) ∧
    (t.err = true ↔ t.ecause ≠ 0#4)

/-! ## Encoding -/

/-- A few words of 95_test_vectors.md section 2.1, and what each decodes to. -/
def Obligations.VectorWordsDecode : Prop :=
  decode 0x0000#16 = .command .nop ∧ decode 0x1000#16 = .command .build ∧
  decode 0x2F00#16 = .command (.init 15#4) ∧ decode 0x3100#16 = .command (.final 1#4) ∧
  decode 0x4031#16 = .command (.fold 0#4 0x31#8) ∧ decode 0x5139#16 = .command (.foldl 1#4 0x39#8) ∧
  decode 0x6131#16 = .command (.foldf 1#4 0x31#8) ∧ decode 0x7FFF#16 = .command (.foldfl 15#4 0xFF#8) ∧
  decode 0x80FF#16 = .command (.trd 255#8) ∧ decode 0x2001#16 = .reservedField ∧
  decode 0x8100#16 = .reservedField ∧ decode 0x9ABC#16 = .illegalOpcode

/-- 30_encoding.md R80: `decode` is the nested test of the rule, on the word read as a number; `encode` is the table of
sums of the rule; each is the inverse of the other on commands. -/
def Obligations.DecodeAndEncodeAgree : Prop :=
  (∀ w : CmdWord, decode w =
    (if w.toNat / 4096 = 0 then (if w.toNat % 4096 = 0 then .command .nop else .reservedField)
     else if w.toNat / 4096 = 1 then (if w.toNat % 4096 = 0 then .command .build else .reservedField)
     else if w.toNat / 4096 = 2 then
       (if w.toNat % 256 = 0 then .command (.init (BitVec.ofNat 4 (w.toNat / 256))) else .reservedField)
     else if w.toNat / 4096 = 3 then
       (if w.toNat % 256 = 0 then .command (.final (BitVec.ofNat 4 (w.toNat / 256))) else .reservedField)
     else if w.toNat / 4096 = 4 then .command (.fold (BitVec.ofNat 4 (w.toNat / 256)) (BitVec.ofNat 8 w.toNat))
     else if w.toNat / 4096 = 5 then .command (.foldl (BitVec.ofNat 4 (w.toNat / 256)) (BitVec.ofNat 8 w.toNat))
     else if w.toNat / 4096 = 6 then .command (.foldf (BitVec.ofNat 4 (w.toNat / 256)) (BitVec.ofNat 8 w.toNat))
     else if w.toNat / 4096 = 7 then .command (.foldfl (BitVec.ofNat 4 (w.toNat / 256)) (BitVec.ofNat 8 w.toNat))
     else if w.toNat / 4096 = 8 then
       (if w.toNat / 256 % 16 = 0 then .command (.trd (BitVec.ofNat 8 w.toNat)) else .reservedField)
     else .illegalOpcode)) ∧
  (encode .nop).toNat = 0x0000 ∧ (encode .build).toNat = 0x1000 ∧
  (∀ c : Ctx, (encode (.init c)).toNat = 0x2000 + 0x100 * c.toNat) ∧
  (∀ c : Ctx, (encode (.final c)).toNat = 0x3000 + 0x100 * c.toNat) ∧
  (∀ (c : Ctx) (b : Byte), (encode (.fold c b)).toNat = 0x4000 + 0x100 * c.toNat + b.toNat) ∧
  (∀ (c : Ctx) (b : Byte), (encode (.foldl c b)).toNat = 0x5000 + 0x100 * c.toNat + b.toNat) ∧
  (∀ (c : Ctx) (b : Byte), (encode (.foldf c b)).toNat = 0x6000 + 0x100 * c.toNat + b.toNat) ∧
  (∀ (c : Ctx) (b : Byte), (encode (.foldfl c b)).toNat = 0x7000 + 0x100 * c.toNat + b.toNat) ∧
  (∀ i : Byte, (encode (.trd i)).toNat = 0x8000 + i.toNat) ∧
  (∀ i : Instr, decode (encode i) = .command i) ∧
  (∀ (w : CmdWord) (i : Instr), decode w = .command i → encode i = w)

/-- 30_encoding.md R74: a word is the command of a row of the opcode map exactly when `w AND mask = match`; the rows are
disjoint; a word that matches no row is no command and faults. -/
def Obligations.OpcodeMapIsMatchAndMask : Prop :=
  (∀ w : CmdWord,
    (w &&& 0xFFFF#16 = 0x0000#16 ↔ decode w = .command .nop) ∧
    (w &&& 0xFFFF#16 = 0x1000#16 ↔ decode w = .command .build) ∧
    (w &&& 0xF0FF#16 = 0x2000#16 ↔ ∃ c, decode w = .command (.init c)) ∧
    (w &&& 0xF0FF#16 = 0x3000#16 ↔ ∃ c, decode w = .command (.final c)) ∧
    (w &&& 0xF000#16 = 0x4000#16 ↔ ∃ c b, decode w = .command (.fold c b)) ∧
    (w &&& 0xF000#16 = 0x5000#16 ↔ ∃ c b, decode w = .command (.foldl c b)) ∧
    (w &&& 0xF000#16 = 0x6000#16 ↔ ∃ c b, decode w = .command (.foldf c b)) ∧
    (w &&& 0xF000#16 = 0x7000#16 ↔ ∃ c b, decode w = .command (.foldfl c b)) ∧
    (w &&& 0xFF00#16 = 0x8000#16 ↔ ∃ i, decode w = .command (.trd i))) ∧
  (∀ r₁ ∈ opcodeRows, ∀ r₂ ∈ opcodeRows, ∀ w : CmdWord, w &&& r₁.2 = r₁.1 → w &&& r₂.2 = r₂.1 → r₁ = r₂) ∧
  (∀ (s : State) (w : CmdWord), s.err = false → s.nextWord = some w → (∀ row ∈ opcodeRows, w &&& row.2 ≠ row.1) →
    (∀ i, decode w ≠ .command i) ∧
    ∃ cause : BitVec 4, (cause = 1#4 ∨ cause = 2#4) ∧
      step s = .next { s with pc := s.pc + 1, err := true, ecause := cause, ecmd := w })

/-- 30_encoding.md R76: a word with `op` 9 to 15 raises `ILLEGAL_OPCODE`, cause 1, whatever its other bits are. -/
def Obligations.ReservedOpcodesFault : Prop :=
  ∀ (s : State) (w : CmdWord), s.err = false → s.nextWord = some w → 0x9000 ≤ w.toNat →
    step s = .next { s with pc := s.pc + 1, err := true, ecause := 1#4, ecmd := w }

/-- 30_encoding.md R77: a word with `op` 0 to 8 whose must-be-zero field is not zero is no command and raises
`RESERVED_FIELD`, cause 2; the fold group has no such word. -/
def Obligations.NonzeroReservedFieldsFault : Prop :=
  (∀ (s : State) (w : CmdWord), s.err = false → s.nextWord = some w →
    (((w.toNat / 4096 = 0 ∨ w.toNat / 4096 = 1) ∧ w.toNat % 4096 ≠ 0) ∨
     ((w.toNat / 4096 = 2 ∨ w.toNat / 4096 = 3) ∧ w.toNat % 256 ≠ 0) ∨
     (w.toNat / 4096 = 8 ∧ w.toNat / 256 % 16 ≠ 0)) →
    (∀ i, decode w ≠ .command i) ∧
    step s = .next { s with pc := s.pc + 1, err := true, ecause := 2#4, ecmd := w }) ∧
  (∀ w : CmdWord, 4 ≤ w.toNat / 4096 → w.toNat / 4096 ≤ 7 → ∃ i, decode w = .command i)

/-- 30_encoding.md R84 and R75: a beat is exactly the command word of its lines, which is the fold-group command of its
two flags, bit 13 first and bit 12 last, and every word with bits 15:14 = 01 is the word of such a beat; a beat is
accepted only where the engine has a stream port (notes/assumptions/9.md). -/
def Obligations.StreamBeatIsItsCommand : Prop :=
  ∀ (s : State) (t : Beat),
    s.acceptBeat t = (if s.params.hasStream then some { s with prog := s.prog ++ [t.word] } else none) ∧
    t.word.toNat = 0x4000 + 0x2000 * t.first.toNat + 0x1000 * t.last.toNat + 0x100 * t.ctx.toNat + t.data.toNat ∧
    decode t.word = .command
      (match t.first, t.last with
       | false, false => .fold t.ctx t.data
       | false, true => .foldl t.ctx t.data
       | true, false => .foldf t.ctx t.data
       | true, true => .foldfl t.ctx t.data) ∧
    ∀ w : CmdWord, w.toNat / 0x4000 = 1 →
      w = (Beat.word { ctx := ctxField w, data := immField w, first := w.getLsbD 13, last := w.getLsbD 12 })

/-- 42_combined_and_streaming.md R139: of two transfers offered together the command port's is taken first, and the
other stays offered; where the engine has a stream port it is taken next. Which transfers are offered together is the
host's choice (notes/assumptions/9.md). -/
def Obligations.CommandPortIsTakenFirst : Prop :=
  ∀ (s : State) (w : CmdWord) (t : Beat), s.params.hasStream = true →
    (s.acceptOffer { cmd := some w, beat := some t }).2 = { cmd := none, beat := some t } ∧
    ((s.acceptOffer { cmd := some w, beat := some t }).1.acceptOffer { cmd := none, beat := some t }) =
      ({ s with prog := s.prog ++ [w, t.word] }, { cmd := none, beat := none })

/-! ## The commands -/

/-- 43_system_and_sequencing.md R150. -/
def Obligations.NopCountsAndDoesNothing : Prop :=
  encode .nop = 0x0000#16 ∧
  (∀ w : CmdWord, w.toNat < 0x1000 → w ≠ 0x0000#16 → decode w = .reservedField) ∧
  (∀ s : State, s.err = false →
    exec .nop s = .next { s with pc := s.pc + 1, cmdcnt := s.cmdcnt + 1#32 }) ∧
  (∀ s : State, s.err = false → s.cmdcnt = 5#32 →
    exec .nop s = .next { s with pc := s.pc + 1, cmdcnt := 6#32 })

/-- 40_table_construction.md R96: with `TV = 0` the table is constructed, every entry reading `entry(i)`; with `TV = 1`
nothing but the counters changes. -/
def Obligations.BuildConstructsAnAbsentTable : Prop :=
  encode .build = 0x1000#16 ∧
  (∀ w : CmdWord, w.toNat / 0x1000 = 1 → w.toNat % 0x1000 ≠ 0 → decode w = .reservedField) ∧
  (∀ s : State, s.err = false → s.tv = true →
    exec .build s = .next { s with pc := s.pc + 1, cmdcnt := s.cmdcnt + 1#32 }) ∧
  (∀ s : State, s.err = false → s.tv = false →
    ∃ u : Memory, (∀ i : Byte, u.read i = some (entry i)) ∧ (s.table.wf = true → u.wf = true) ∧
      exec .build s = .next { s with pc := s.pc + 1, cmdcnt := s.cmdcnt + 1#32, table := u, tv := true })

/-- 40_table_construction.md R98: the entry read is the constructed one where the table was absent, and the one the
table holds otherwise. -/
def Obligations.TableReadDeliversTheEntry : Prop :=
  (∀ i : Byte, (encode (.trd i)).toNat = 0x8000 + i.toNat) ∧
  (∀ w : CmdWord, w.toNat / 0x1000 = 8 → w.toNat / 0x100 % 16 ≠ 0 → decode w = .reservedField) ∧
  ∀ (s : State) (i : Byte), s.err = false →
    (s.tv = true → ∀ v, s.table.read i = some v →
      exec (.trd i) s = .next { s with
        pc := s.pc + 1, cmdcnt := s.cmdcnt + 1#32
        out := s.out ++ [{ kind := .tab, id := i, value := v }]
        result := some v, rsrc := some (1#1 ++ i), rv := true }) ∧
    (s.tv = false →
      exec (.trd i) s = .next { s with
        pc := s.pc + 1, cmdcnt := s.cmdcnt + 1#32, table := s.table.construct, tv := true
        out := s.out ++ [{ kind := .tab, id := i, value := entry i }]
        result := some (entry i), rsrc := some (1#1 ++ i), rv := true })

/-- 41_checksum_fold.md R111: `INIT c` opens context `c`, whether or not a computation is open there, and faults with
`BAD_CONTEXT` where the context does not exist. -/
def Obligations.InitOpensItsContext : Prop :=
  (∀ c : Ctx, (encode (.init c)).toNat = 0x2000 + 0x100 * c.toNat) ∧
  (∀ w : CmdWord, w.toNat / 0x1000 = 2 → w.toNat % 0x100 ≠ 0 → decode w = .reservedField) ∧
  ∀ (s : State) (c : Ctx), s.err = false →
    (c.toNat < s.params.nctx →
      exec (.init c) s = .next { s with
        pc := s.pc + 1, cmdcnt := s.cmdcnt + 1#32
        acc := s.acc.set c.toNat (some 0xFFFFFFFF#32) c.isLt
        act := s.act.set c.toNat true c.isLt }) ∧
    (s.params.nctx ≤ c.toNat →
      exec (.init c) s = .next { s with pc := s.pc + 1, err := true, ecause := 3#4, ecmd := encode (.init c) })

/-- 41_checksum_fold.md R112: the result of `FOLD c, b`, with `T` as it is after `ensure_table()`, and its two
faults. -/
def Obligations.FoldUpdatesItsAccumulator : Prop :=
  (∀ (c : Ctx) (b : Byte), (encode (.fold c b)).toNat = 0x4000 + 0x100 * c.toNat + b.toNat) ∧
  ∀ (s : State) (c : Ctx) (b : Byte), s.err = false →
    (c.toNat < s.params.nctx → s.actOf c = true → ∀ crc, s.accAt c = some crc →
      (s.tv = true → ∀ t, s.table.read (((crc ^^^ b.setWidth 32) &&& 0x000000FF#32).setWidth 8) = some t →
        exec (.fold c b) s = .next { s with
          pc := s.pc + 1, cmdcnt := s.cmdcnt + 1#32
          acc := s.acc.set c.toNat (some ((crc >>> 8) ^^^ t)) c.isLt }) ∧
      (s.tv = false →
        exec (.fold c b) s = .next { s with
          pc := s.pc + 1, cmdcnt := s.cmdcnt + 1#32, table := s.table.construct, tv := true
          acc := s.acc.set c.toNat
            (some ((crc >>> 8) ^^^ entry (((crc ^^^ b.setWidth 32) &&& 0x000000FF#32).setWidth 8))) c.isLt })) ∧
    (c.toNat < s.params.nctx → s.actOf c = false →
      exec (.fold c b) s = .next { s with pc := s.pc + 1, err := true, ecause := 4#4, ecmd := encode (.fold c b) }) ∧
    (s.params.nctx ≤ c.toNat →
      exec (.fold c b) s = .next { s with pc := s.pc + 1, err := true, ecause := 3#4, ecmd := encode (.fold c b) })

/-- 41_checksum_fold.md R113: `FINAL c` delivers the inverted accumulator and closes the computation; the table is
neither read nor constructed; its three faults. -/
def Obligations.FinalDeliversAndCloses : Prop :=
  (∀ c : Ctx, (encode (.final c)).toNat = 0x3000 + 0x100 * c.toNat) ∧
  (∀ w : CmdWord, w.toNat / 0x1000 = 3 → w.toNat % 0x100 ≠ 0 → decode w = .reservedField) ∧
  ∀ (s : State) (c : Ctx), s.err = false →
    (c.toNat < s.params.nctx → s.actOf c = true → ∀ crc, s.accAt c = some crc →
      exec (.final c) s = .next { s with
        pc := s.pc + 1, cmdcnt := s.cmdcnt + 1#32
        out := s.out ++ [{ kind := .crc, id := c.setWidth 8, value := crc ^^^ 0xFFFFFFFF#32 }]
        result := some (crc ^^^ 0xFFFFFFFF#32), rsrc := some (0#1 ++ c.setWidth 8), rv := true
        acc := s.acc.set c.toNat none c.isLt
        act := s.act.set c.toNat false c.isLt }) ∧
    (c.toNat < s.params.nctx → s.actOf c = false →
      exec (.final c) s = .next { s with pc := s.pc + 1, err := true, ecause := 4#4, ecmd := encode (.final c) }) ∧
    (s.params.nctx ≤ c.toNat →
      exec (.final c) s = .next { s with pc := s.pc + 1, err := true, ecause := 3#4, ecmd := encode (.final c) })

/-- 42_combined_and_streaming.md R135: `FOLDF c, b` opens context `c` and folds `b`, whether or not a computation is
open there; the state after `INIT c; FOLD c, b` differs from its state in the two counters only. -/
def Obligations.FoldFirstOpensAndFolds : Prop :=
  (∀ (c : Ctx) (b : Byte), (encode (.foldf c b)).toNat = 0x6000 + 0x100 * c.toNat + b.toNat) ∧
  ∀ (s : State) (c : Ctx) (b : Byte), s.err = false →
    (c.toNat < s.params.nctx →
      (s.tv = true → ∀ t, s.table.read (0xFF#8 ^^^ b) = some t →
        exec (.foldf c b) s = .next { s with
          pc := s.pc + 1, cmdcnt := s.cmdcnt + 1#32
          acc := s.acc.set c.toNat (some (0x00FFFFFF#32 ^^^ t)) c.isLt
          act := s.act.set c.toNat true c.isLt }) ∧
      (s.tv = false →
        exec (.foldf c b) s = .next { s with
          pc := s.pc + 1, cmdcnt := s.cmdcnt + 1#32, table := s.table.construct, tv := true
          acc := s.acc.set c.toNat (some (0x00FFFFFF#32 ^^^ entry (0xFF#8 ^^^ b))) c.isLt
          act := s.act.set c.toNat true c.isLt }) ∧
      ∃ t u, exec (.foldf c b) s = .next t ∧ exec (.init c) s = .next u ∧
        exec (.fold c b) u = .next { t with pc := t.pc + 1, cmdcnt := t.cmdcnt + 1#32 }) ∧
    (s.params.nctx ≤ c.toNat →
      exec (.foldf c b) s = .next { s with pc := s.pc + 1, err := true, ecause := 3#4, ecmd := encode (.foldf c b) })

/-- 42_combined_and_streaming.md R136: `FOLDL c, b` folds, delivers and closes; the state after `FOLD c, b; FINAL c`
differs from its state in the two counters only. `v` is the value of the rule. -/
def Obligations.FoldLastDeliversAndCloses : Prop :=
  (∀ (c : Ctx) (b : Byte), (encode (.foldl c b)).toNat = 0x5000 + 0x100 * c.toNat + b.toNat) ∧
  ∀ (s : State) (c : Ctx) (b : Byte), s.err = false →
    (c.toNat < s.params.nctx → s.actOf c = true → ∀ crc, s.accAt c = some crc →
      (s.tv = true → ∀ t v, s.table.read (((crc ^^^ b.setWidth 32) &&& 0x000000FF#32).setWidth 8) = some t →
        v = ((crc >>> 8) ^^^ t) ^^^ 0xFFFFFFFF#32 →
        exec (.foldl c b) s = .next { s with
          pc := s.pc + 1, cmdcnt := s.cmdcnt + 1#32
          out := s.out ++ [{ kind := .crc, id := c.setWidth 8, value := v }]
          result := some v, rsrc := some (0#1 ++ c.setWidth 8), rv := true
          acc := s.acc.set c.toNat none c.isLt
          act := s.act.set c.toNat false c.isLt }) ∧
      (s.tv = false → ∀ v,
        v = ((crc >>> 8) ^^^ entry (((crc ^^^ b.setWidth 32) &&& 0x000000FF#32).setWidth 8)) ^^^ 0xFFFFFFFF#32 →
        exec (.foldl c b) s = .next { s with
          pc := s.pc + 1, cmdcnt := s.cmdcnt + 1#32, table := s.table.construct, tv := true
          out := s.out ++ [{ kind := .crc, id := c.setWidth 8, value := v }]
          result := some v, rsrc := some (0#1 ++ c.setWidth 8), rv := true
          acc := s.acc.set c.toNat none c.isLt
          act := s.act.set c.toNat false c.isLt }) ∧
      ∃ t u, exec (.foldl c b) s = .next t ∧ exec (.fold c b) s = .next u ∧
        exec (.final c) u = .next { t with pc := t.pc + 1, cmdcnt := t.cmdcnt + 1#32 }) ∧
    (c.toNat < s.params.nctx → s.actOf c = false →
      exec (.foldl c b) s = .next { s with pc := s.pc + 1, err := true, ecause := 4#4, ecmd := encode (.foldl c b) }) ∧
    (s.params.nctx ≤ c.toNat →
      exec (.foldl c b) s = .next { s with pc := s.pc + 1, err := true, ecause := 3#4, ecmd := encode (.foldl c b) })

/-- 42_combined_and_streaming.md R137: `FOLDFL c, b` delivers the checksum of the one-byte message and leaves the
context closed, whether or not a computation was open there; the state after `INIT c; FOLD c, b; FINAL c` differs from
its state in the two counters only. -/
def Obligations.FoldOnlyDeliversOneByteChecksum : Prop :=
  (∀ (c : Ctx) (b : Byte), (encode (.foldfl c b)).toNat = 0x7000 + 0x100 * c.toNat + b.toNat) ∧
  (∀ b : Byte, 0xFF000000#32 ^^^ entry (0xFF#8 ^^^ b) = crc32 [b]) ∧
  ∀ (s : State) (c : Ctx) (b : Byte), s.err = false →
    (c.toNat < s.params.nctx →
      (s.tv = true → ∀ t v, s.table.read (0xFF#8 ^^^ b) = some t → v = 0xFF000000#32 ^^^ t →
        exec (.foldfl c b) s = .next { s with
          pc := s.pc + 1, cmdcnt := s.cmdcnt + 1#32
          out := s.out ++ [{ kind := .crc, id := c.setWidth 8, value := v }]
          result := some v, rsrc := some (0#1 ++ c.setWidth 8), rv := true
          acc := s.acc.set c.toNat none c.isLt
          act := s.act.set c.toNat false c.isLt }) ∧
      (s.tv = false → ∀ v, v = 0xFF000000#32 ^^^ entry (0xFF#8 ^^^ b) →
        exec (.foldfl c b) s = .next { s with
          pc := s.pc + 1, cmdcnt := s.cmdcnt + 1#32, table := s.table.construct, tv := true
          out := s.out ++ [{ kind := .crc, id := c.setWidth 8, value := v }]
          result := some v, rsrc := some (0#1 ++ c.setWidth 8), rv := true
          acc := s.acc.set c.toNat none c.isLt
          act := s.act.set c.toNat false c.isLt }) ∧
      ∃ t u v, exec (.foldfl c b) s = .next t ∧ exec (.init c) s = .next u ∧ exec (.fold c b) u = .next v ∧
        exec (.final c) v = .next { t with pc := t.pc + 2, cmdcnt := t.cmdcnt + 2#32 }) ∧
    (s.params.nctx ≤ c.toNat →
      exec (.foldfl c b) s = .next { s with pc := s.pc + 1, err := true, ecause := 3#4, ecmd := encode (.foldfl c b) })

/-- 60_exceptions.md R166, 41_checksum_fold.md R122: no byte, index, accumulator value or table state makes a command
fault. Every command whose context exists, and is open where the command needs it, completes and is counted. -/
def Obligations.NoDataValueFaults : Prop :=
  ∀ (s : State) (i : Instr), s.err = false → i.wellFormed s.params = true →
    (needsOpen i = true → ∀ c, ctxOperand i = some c → s.actOf c = true) →
    ∃ t, exec i s = .next t ∧ t.err = false ∧ t.pc = s.pc + 1 ∧ t.cmdcnt = s.cmdcnt + 1#32

/-! ## Faults -/

/-- 60_exceptions.md R164: a command that names a context the engine does not have raises `BAD_CONTEXT` and has no other
effect; an engine of sixteen contexts never raises it; it is decided after decoding. -/
def Obligations.MissingContextFaults : Prop :=
  (∀ (s : State) (i : Instr) (c : Ctx), s.err = false → ctxOperand i = some c → s.params.nctx ≤ c.toNat →
    exec i s = .next { s with pc := s.pc + 1, err := true, ecause := 3#4, ecmd := encode i }) ∧
  (∀ s t : State, s.params.nctx = 16 → s.ecause ≠ 3#4 → step s = .next t → t.ecause ≠ 3#4) ∧
  (∀ (s t : State) (w : CmdWord), s.err = false → s.nextWord = some w → decode w = .reservedField →
    step s = .next t → t.ecause = 2#4) ∧
  decode 0x2101#16 = .reservedField

/-- 60_exceptions.md R165: `FOLD`, `FOLDL` and `FINAL` on an idle context raise `SEQUENCE` and have no other effect (the
table is not constructed); `INIT`, `FOLDF` and `FOLDFL` raise it in no state. -/
def Obligations.IdleContextFaults : Prop :=
  (∀ (s : State) (c : Ctx) (b : Byte) (i : Instr), i = .fold c b ∨ i = .foldl c b ∨ i = .final c →
    s.err = false → c.toNat < s.params.nctx → s.actOf c = false →
    exec i s = .next { s with pc := s.pc + 1, err := true, ecause := 4#4, ecmd := encode i }) ∧
  (∀ (s t : State) (c : Ctx) (b : Byte) (i : Instr), i = .init c ∨ i = .foldf c b ∨ i = .foldfl c b →
    s.ecause ≠ 4#4 → exec i s = .next t → t.ecause ≠ 4#4)

/-- 60_exceptions.md R170: taking a fault writes `ERR`, `ECAUSE` and `ECMD` and nothing else; `pc` has advanced past the
word; the cause is one of 1 to 4; the `err` pin rises. -/
def Obligations.FaultsArePrecise : Prop :=
  ∀ s t : State, s.err = false → step s = .next t → t.err = true →
    t.errPin = true ∧
    ∃ (w : CmdWord) (cause : BitVec 4), s.nextWord = some w ∧ 1 ≤ cause.toNat ∧ cause.toNat ≤ 4 ∧
      t = { s with pc := s.pc + 1, err := true, ecause := cause, ecmd := w }

/-- 60_exceptions.md R171: while `ERR = 1` every accepted word is discarded and only `pc` moves, for any number of
words. -/
def Obligations.HaltedEngineDiscardsEveryWord : Prop :=
  (∀ (s : State) (w : CmdWord), s.err = true → s.nextWord = some w → step s = .next { s with pc := s.pc + 1 }) ∧
  (∀ (k : Nat) (s : State), s.err = true → s.pc + k ≤ s.prog.length → run k s = .next { s with pc := s.pc + k })

/-- 10_state.md R31: `ERR`, `ECAUSE` and `ECMD` are written only by trap entry and never cleared by a command: a step
that raises no fault leaves the three as they were. Reset clears them (60_exceptions.md R172). -/
def Obligations.FaultRegistersChangeOnlyByTrap : Prop :=
  (∀ s t : State, step s = .next t →
    (s.err = true → t.err = true) ∧ (t.err = s.err → t.ecause = s.ecause ∧ t.ecmd = s.ecmd)) ∧
  (∀ s : State, s.assertReset.err = false ∧ s.assertReset.ecause = 0#4 ∧ s.assertReset.ecmd = 0x0000#16)

/-- 10_state.md R29: a command that completes adds 1 to `CMDCNT` modulo 2^32; a command that faults or is discarded
does not. From that the count of a state a run reaches: `pc` while `ERR = 0`, the index of the faulting word
afterwards (`State.Inv` and `State.History` hold at reset and are kept, as statements of their own say). -/
def Obligations.OnlyCompletedCommandsAreCounted : Prop :=
  (∀ p : Params, (State.resetOf p).cmdcnt = 0#32) ∧
  (∀ (s t : State) (w : CmdWord), s.nextWord = some w → step s = .next t →
    t.cmdcnt.toNat = if s.err = false ∧ t.err = false then (s.cmdcnt.toNat + 1) % 2 ^ 32 else s.cmdcnt.toNat) ∧
  (∀ s t : State, s.Inv → step s = .next t → t.err = false → t.cmdcnt.toNat = t.pc % 2 ^ 32) ∧
  (∀ s t : State, s.Inv → s.History → step s = .next t → t.err = true →
    ∃ n, t.cmdcnt.toNat = n % 2 ^ 32 ∧ n < t.pc ∧ t.prog[n]? = some t.ecmd)

/-! ## Frames -/

/-- 10_state.md R24: a command neither reads nor writes the accumulator or the flag of a context it does not name: the
two may hold anything, and the command does the same and leaves them. An engine of one context has context 0. -/
def Obligations.CommandsIgnoreOtherContexts : Prop :=
  ∀ (s t : State) (i : Instr) (d : Ctx) (v : Option Word32) (a : Bool), ctxOperand i ≠ some d → exec i s = .next t →
    t.accAt d = s.accAt d ∧ t.actOf d = s.actOf d ∧
    exec i ((s.writeAcc d v).writeAct d a) = .next ((t.writeAcc d v).writeAct d a) ∧
    (s.params.nctx = 1 → (d.toNat < s.params.nctx ↔ d = 0#4))

/-- 10_state.md R33: exactly `FINAL`, `FOLDL`, `FOLDFL` (kind `CRC`, the context's number) and `TRD` (kind `TAB`, the
index) produce one output event when they complete, appended to `OUT`; no other command, and no faulting or discarded
one, changes `OUT`, `RESULT`, `RSRC` or `RV` (70_reset_and_hazards.md R194). -/
def Obligations.EventsComeFromFourCommands : Prop :=
  EventKind.crc.bit = 0#1 ∧ EventKind.tab.bit = 1#1 ∧ (∀ p : Params, (State.resetOf p).out = []) ∧
  (∀ i : Instr, producesEvent i = true ↔
    (∃ c, i = .final c) ∨ (∃ c b, i = .foldl c b) ∨ (∃ c b, i = .foldfl c b) ∨ ∃ j, i = .trd j) ∧
  ∀ (s t : State) (i : Instr), exec i s = .next t →
    (s.err = false → t.err = false → producesEvent i = true →
      ∃ e : OutEvent, t.out = s.out ++ [e] ∧
        (∀ c, ctxOperand i = some c → e.kind = .crc ∧ e.id = c.setWidth 8) ∧
        (∀ j, i = .trd j → e.kind = .tab ∧ e.id = j) ∧
        t.result = some e.value ∧ t.rsrc = some (e.kind.bit ++ e.id) ∧ t.rv = true) ∧
    (s.err = true ∨ t.err = true ∨ producesEvent i = false →
      t.out = s.out ∧ t.result = s.result ∧ t.rsrc = s.rsrc ∧ t.rv = s.rv)

/-- 40_table_construction.md R95: `NOP`, `INIT` and `FINAL` never construct, nor does a command that faults or is
discarded; a command that reads the table, and `BUILD`, leaves it valid, with every entry constructed where it was
absent. No command changes an accepted word or a parameter. -/
def Obligations.TableFrame : Prop :=
  ∀ (s t : State) (i : Instr), exec i s = .next t →
    t.prog = s.prog ∧ t.params = s.params ∧
    ((wantsTable i = false ∨ s.err = true ∨ t.err = true ∨ s.tv = true) →
      t.tv = s.tv ∧ ∀ j : Byte, t.table.read j = s.table.read j) ∧
    (wantsTable i = true → s.err = false → t.err = false → s.tv = false →
      t.tv = true ∧ ∀ j : Byte, t.table.read j = some (entry j))

/-- 10_state.md R27, 40_table_construction.md R97: once `TV = 1`, no number of commands changes any entry or `TV`, nor
does anything else the host does but reset. -/
def Obligations.ValidTableNeverChanges : Prop :=
  (∀ (k : Nat) (s t : State), s.tv = true → run k s = .next t → t.tv = true ∧ t.table = s.table) ∧
  (∀ (s : State) (o : Offer), (s.acceptOffer o).1.tv = s.tv ∧ (s.acceptOffer o).1.table = s.table)

/-- 42_combined_and_streaming.md R140: the fused forms agree with the commands they are made of. `pc` and `CMDCNT`
differ by the number of commands, and where `FOLDL` faults so do its parts, with the same cause. -/
def Obligations.FusedFormsAgreeWithTheirParts : Prop :=
  ∀ (s : State) (c : Ctx) (b : Byte), s.err = false → c.toNat < s.params.nctx →
    (∃ t u v, exec (.foldf c b) s = .next t ∧ exec (.init c) s = .next u ∧ exec (.fold c b) u = .next v ∧
      AgreesFused t v ∧ v.pc = t.pc + 1 ∧ v.cmdcnt = t.cmdcnt + 1#32) ∧
    (∃ t u v, exec (.foldl c b) s = .next t ∧ exec (.fold c b) s = .next u ∧ exec (.final c) u = .next v ∧
      AgreesFused t v ∧ v.pc = t.pc + 1 ∧
      (t.err = false → v.cmdcnt = t.cmdcnt + 1#32) ∧
      (t.err = true → v.cmdcnt = t.cmdcnt ∧ t.ecause = 4#4 ∧ t.ecmd = encode (.foldl c b) ∧
        v.ecmd = encode (.fold c b))) ∧
    (∃ t u v x, exec (.foldfl c b) s = .next t ∧ exec (.init c) s = .next u ∧ exec (.fold c b) u = .next v ∧
      exec (.final c) v = .next x ∧ AgreesFused t x ∧ x.pc = t.pc + 2 ∧ x.cmdcnt = t.cmdcnt + 2#32)

/-! ## Reset and the status port -/

/-- 10_state.md R43: the value of every piece of state when reset ends, for every engine; and reset during a run leaves
the same, whatever the state was (70_reset_and_hazards.md R190, R192). -/
def Obligations.ResetLeavesTheStatedValues : Prop :=
  ∀ (s : State),
    s.assertReset.params = s.params ∧ s.assertReset.prog = [] ∧ s.assertReset.pc = 0 ∧
    (s.params.tableInit = .eager →
      s.assertReset.tv = true ∧ ∀ i : Byte, s.assertReset.table.read i = some (entry i)) ∧
    (s.params.tableInit = .lazy →
      s.assertReset.tv = false ∧ ∀ i : Byte, s.assertReset.table.read i = none) ∧
    (∀ c : Ctx, s.assertReset.accAt c = none ∧ s.assertReset.actOf c = false) ∧
    s.assertReset.err = false ∧ s.assertReset.ecause = 0#4 ∧ s.assertReset.ecmd = 0x0000#16 ∧
    s.assertReset.cmdcnt = 0x00000000#32 ∧ s.assertReset.result = none ∧ s.assertReset.rsrc = none ∧
    s.assertReset.rv = false ∧ s.assertReset.out = [] ∧
    ∀ draw, s.assertReset.statusRead 5#3 draw = s.statusRead 5#3 draw

/-- 70_reset_and_hazards.md R190, R192, 60_exceptions.md R168: while `rst = 1` nothing is accepted, no event is produced,
`err` shows 0 and the state is the reset state, whatever word stood next; with `rst = 0` the pin changes nothing. The
pin as an argument of a step is the model's form (notes/assumptions/11.md). -/
def Obligations.ResetPinWinsOverCommands : Prop :=
  ∀ (s : State) (o : Offer),
    stepUnder true s = .next (State.resetOf s.params) ∧ (State.resetOf s.params).out = [] ∧
    s.acceptUnder true o = (State.resetOf s.params, o) ∧ s.errLine true = false ∧
    stepUnder false s = step s ∧ s.acceptUnder false o = s.acceptOffer o ∧ s.errLine false = s.err

/-- 10_state.md R30: what sets and what clears each flag, for every step. Only reset clears `TV`, `ERR` and `RV`; a step
that sets `TV` ran `BUILD` or a command that reads the table; one that sets `RV` appended an event; one that sets
`ERR` took a fault; `ACT[c]` is set by `INIT c` and `FOLDF c` and cleared by `FINAL c`, `FOLDL c` and `FOLDFL c` only. -/
def Obligations.FlagsAreSetAndClearedAsTabulated : Prop :=
  ∀ s t : State, step s = .next t →
    (s.tv = true → t.tv = true) ∧ (s.err = true → t.err = true) ∧ (s.rv = true → t.rv = true) ∧
    (s.tv = false → t.tv = true → ∃ w i, s.nextWord = some w ∧ decode w = .command i ∧ wantsTable i = true) ∧
    (s.rv = false → t.rv = true → ∃ e, t.out = s.out ++ [e]) ∧
    (s.err = false → t.err = true → t.ecause ≠ 0#4 ∧ s.nextWord = some t.ecmd) ∧
    ∀ c : Ctx,
      (s.actOf c = false → t.actOf c = true →
        ∃ w, s.nextWord = some w ∧ (decode w = .command (.init c) ∨ ∃ b, decode w = .command (.foldf c b))) ∧
      (s.actOf c = true → t.actOf c = false →
        ∃ w, s.nextWord = some w ∧ (decode w = .command (.final c) ∨
          ∃ b, decode w = .command (.foldl c b) ∨ decode w = .command (.foldfl c b)))

/-- 10_state.md R37: the fields of `STATUS`. -/
def Obligations.StatusRegisterFields : Prop :=
  ∀ (s : State) (draw : Word32),
    (s.statusRead 0#3 draw).getLsbD 0 = s.tv ∧ (s.statusRead 0#3 draw).getLsbD 1 = s.err ∧
    (s.statusRead 0#3 draw).getLsbD 2 = s.rv ∧ (s.statusRead 0#3 draw).getLsbD 3 = false ∧
    (s.statusRead 0#3 draw).extractLsb' 4 4 = s.ecause ∧ (s.statusRead 0#3 draw).extractLsb' 8 8 = 0#8 ∧
    (∀ c : Ctx, (s.statusRead 0#3 draw).getLsbD (16 + c.toNat) = (decide (c.toNat < s.params.nctx) && s.actOf c)) ∧
    s.errPin = (s.statusRead 0#3 draw).getLsbD 1 ∧
    (s.Inv → s.err = false → (s.statusRead 0#3 draw).extractLsb' 4 4 = 0#4)

/-- 10_state.md R36, R38, R39: the register map. `RESULT` and `RSRC` show the last event once there is one; before that
their value is free, the reserved bits of `RSRC` being 0 all the same (notes/assumptions/8.md). -/
def Obligations.StatusRegisterMap : Prop :=
  ∀ (s : State) (draw : Word32),
    (∀ v, s.rv = true → s.result = some v → s.statusRead 1#3 draw = v) ∧
    (s.rv = false → s.statusRead 1#3 draw = draw) ∧
    (∀ v, s.rv = true → s.rsrc = some v → (s.statusRead 2#3 draw).toNat = v.toNat) ∧
    (s.rv = false → (s.statusRead 2#3 draw).toNat = draw.toNat % 512) ∧
    (s.statusRead 3#3 draw).toNat = s.ecmd.toNat ∧
    s.statusRead 4#3 draw = s.cmdcnt ∧
    s.statusRead 6#3 draw = 0x00000000#32 ∧ s.statusRead 7#3 draw = 0x00000000#32

/-- 10_state.md R40: the fields of `CONFIG`, the same in every state of an engine. -/
def Obligations.ConfigRegisterFields : Prop :=
  ∀ (s : State) (draw : Word32),
    ((s.statusRead 5#3 draw).extractLsb' 0 4).toNat = s.params.nctx - 1 ∧
    (s.statusRead 5#3 draw).getLsbD 4 = decide (s.params.tableInit = .lazy) ∧
    (s.statusRead 5#3 draw).getLsbD 5 = s.params.hasStream ∧
    (s.statusRead 5#3 draw).extractLsb' 6 2 = 0#2 ∧ (s.statusRead 5#3 draw).extractLsb' 8 8 = s.params.pipe ∧
    (s.statusRead 5#3 draw).extractLsb' 16 8 = 0#8 ∧ (s.statusRead 5#3 draw).extractLsb' 24 8 = 0x01#8 ∧
    ∀ t, step s = .next t → t.statusRead 5#3 draw = s.statusRead 5#3 draw

/-- 30_encoding.md R82: a step pulses the result port exactly when it produces an event, and the port then shows that
event, whatever the free values are. The clock cycle of the strobe is a step of the model (notes/assumptions/11.md). -/
def Obligations.ResultPortShowsEachEvent : Prop :=
  ∀ (s t : State) (dv : Word32) (ds : BitVec 9), step s = .next t →
    ((resultPort s t dv ds).valid = true ↔ t.out ≠ s.out) ∧
    (∀ e : OutEvent, t.out = s.out ++ [e] →
      newEvent s t = some e ∧ (resultPort s t dv ds).value = e.value ∧
      (resultPort s t dv ds).src = e.kind.bit ++ e.id)

/-! ## The table and the arithmetic -/

/-- 40_table_construction.md R90: the round. -/
def Obligations.RoundShiftsAndReduces : Prop :=
  (∀ v : Word32, v.getLsbD 0 = true → crcRound v = (v >>> 1) ^^^ 0xEDB88320#32) ∧
  (∀ v : Word32, v.getLsbD 0 = false → crcRound v = v >>> 1) ∧
  (∀ v : Word32, (crcRound v).getLsbD 31 = v.getLsbD 0) ∧ crcRound 0#32 = 0#32

/-- 40_table_construction.md R92: in whatever order the 256 entries are written, and whatever the table held, every
entry is `entry(i)` afterwards, and from a table in canonical form the result is one and the same. -/
def Obligations.ConstructionOrderIsUnobservable : Prop :=
  ∀ (is : List Nat) (t : Memory), is.Perm (List.range 256) →
    (∀ i : Byte, (Memory.fill is t).read i = some (entry i)) ∧
    (t.wf = true → Memory.fill is t = Memory.full)

/-- 40_table_construction.md R99: the two entries the source names. -/
def Obligations.FirstTwoEntries : Prop := entry 0#8 = 0x00000000#32 ∧ entry 1#8 = 0x77073096#32

/-- 40_table_construction.md R101: the algebraic properties of the table. -/
def Obligations.TableIsLinearAndDistinct : Prop :=
  (∀ u v : Word32, crcRound (u ^^^ v) = crcRound u ^^^ crcRound v) ∧
  (∀ i j : Byte, entry (i ^^^ j) = entry i ^^^ entry j) ∧ entry 0#8 = 0#32 ∧
  (∀ i j : Byte, entry i = entry j → i = j) ∧
  (∀ i j : Byte, (entry i).extractLsb' 24 8 = (entry j).extractLsb' 24 8 → i = j) ∧
  (∀ b : Byte, ∃ i : Byte, (entry i).extractLsb' 24 8 = b) ∧
  entry 128#8 = 0xEDB88320#32 ∧ entry 255#8 = 0x2D02EF8D#32

/-- 41_checksum_fold.md R121: the laws of the fold. -/
def Obligations.FoldLaws : Prop :=
  (∀ (crc : Word32) (b : Byte), fold entry crc b = fold0 (crc ^^^ b.setWidth 32)) ∧
  (∀ x y : Word32, fold0 (x ^^^ y) = fold0 x ^^^ fold0 y) ∧ fold0 0#32 = 0#32 ∧
  Function.Bijective fold0 ∧
  (∀ k, k < 8 → fold0 (1#32 <<< k) = entry (1#8 <<< k)) ∧
  ((List.range 8).map fun k => entry (1#8 <<< k)) =
    [0x77073096#32, 0xEE0E612C#32, 0x076DC419#32, 0x0EDB8832#32, 0x1DB71064#32, 0x3B6E20C8#32, 0x76DC4190#32,
     0xEDB88320#32] ∧
  (∀ k, 8 ≤ k → k < 32 → fold0 (1#32 <<< k) = 1#32 <<< (k - 8)) ∧
  (∀ b : Byte, Function.Bijective fun crc => fold entry crc b) ∧
  (∀ crc : Word32, Function.Injective fun b => fold entry crc b) ∧
  (∀ x : Word32, fold0 x = crcRound^[8] x) ∧
  (∀ (a e : Word32) (d : List Byte), foldseq (a ^^^ e) d = foldseq a d ^^^ fold0^[d.length] e)

/-- 41_checksum_fold.md R120: two sequences of equal length that differ in exactly one byte, by a flipped bit or
otherwise, have different checksums. -/
def Obligations.OneChangedByteChangesTheChecksum : Prop :=
  (∀ (p q : List Byte) (x y : Byte), x ≠ y → crc32 (p ++ x :: q) ≠ crc32 (p ++ y :: q)) ∧
  (∀ (p q : List Byte) (x : Byte) (k : Nat), k < 8 →
    crc32 (p ++ x :: q) ≠ crc32 (p ++ (x ^^^ (1#8 <<< k)) :: q))

/-- 41_checksum_fold.md R119: the check value, and the nine folds as the rule tabulates them. -/
def Obligations.CheckValueFoldsAsTabulated : Prop :=
  crc32 [0x31#8, 0x32#8, 0x33#8, 0x34#8, 0x35#8, 0x36#8, 0x37#8, 0x38#8, 0x39#8] = 0xCBF43926#32 ∧
  FoldsAs 0x31#8 0xFFFFFFFF#32 0xCE#8 0x7CDCEFB7#32 0x00FFFFFF#32 0x7C231048#32 ∧
  FoldsAs 0x32#8 0x7C231048#32 0x7A#8 0xB0D09822#32 0x007C2310#32 0xB0ACBB32#32 ∧
  FoldsAs 0x33#8 0xB0ACBB32#32 0x01#8 0x77073096#32 0x00B0ACBB#32 0x77B79C2D#32 ∧
  FoldsAs 0x34#8 0x77B79C2D#32 0x19#8 0x646BA8C0#32 0x0077B79C#32 0x641C1F5C#32 ∧
  FoldsAs 0x35#8 0x641C1F5C#32 0x69#8 0x346ED9FC#32 0x00641C1F#32 0x340AC5E3#32 ∧
  FoldsAs 0x36#8 0x340AC5E3#32 0xD5#8 0xF6B9265B#32 0x00340AC5#32 0xF68D2C9E#32 ∧
  FoldsAs 0x37#8 0xF68D2C9E#32 0xA9#8 0xAF0A1B4C#32 0x00F68D2C#32 0xAFFC9660#32 ∧
  FoldsAs 0x38#8 0xAFFC9660#32 0x58#8 0x65B0D9C6#32 0x00AFFC96#32 0x651F2550#32 ∧
  FoldsAs 0x39#8 0x651F2550#32 0x69#8 0x346ED9FC#32 0x00651F25#32 0x340BC6D9#32

/-- 41_checksum_fold.md R117: the empty sequence has checksum 0, and `INIT c; FINAL c` emits it. -/
def Obligations.EmptySequenceHasChecksumZero : Prop :=
  crc32 [] = 0x00000000#32 ∧
  ∀ (s : State) (c : Ctx), s.err = false → c.toNat < s.params.nctx →
    ∃ u t, exec (.init c) s = .next u ∧ exec (.final c) u = .next t ∧ t.err = false ∧
      t.out = s.out ++ [{ kind := .crc, id := c.setWidth 8, value := 0x00000000#32 }]

/-- 42_combined_and_streaming.md R132, R133: folding two segments is folding their concatenation, and the
two-segment pseudo-instruction is, command for command, the one-segment one over the concatenation. -/
def Obligations.TwoSegmentsAreTheirConcatenation : Prop :=
  (∀ (a : Word32) (d e : List Byte), foldseq (foldseq a d) e = foldseq a (d ++ e)) ∧
  (∀ (c : Ctx) (d e : List Byte), (Pseudo.checksum2 c d e).expand = (Pseudo.checksum c (d ++ e)).expand) ∧
  (∀ (c : Ctx) (d : List Byte), (Pseudo.checksum2 c d []).expand = (Pseudo.checksum c d).expand ∧
    (Pseudo.checksum2 c [] d).expand = (Pseudo.checksum c d).expand)

/-- 30_encoding.md R85: a command printed in the assembler's syntax reads back as itself, and so it does with a space and
any comment after it. The printed spelling of blanks and numbers is the model's choice (notes/assumptions/12.md). -/
def Obligations.AssemblerReadsWhatItPrints : Prop :=
  ∀ (i : Instr) (comment : List Char),
    readLine (printInstr i) = some (.command i) ∧
    readLine (printInstr i ++ ' ' :: ';' :: comment) = some (.command i)

/-! ## Invariants -/

/-- 10_state.md R44 (with R43): every engine's reset state meets the invariants. -/
def Obligations.ResetMeetsTheInvariants : Prop :=
  ∀ p : Params, (State.resetOf p).Inv ∧ (State.resetOf p).FaultRecorded ∧ (State.resetOf p).History

/-- 10_state.md R44, items 1 to 3 and 5 to 8: every step keeps the invariants, from every state that meets them, and so
does everything the host does. That contexts which do not exist hold nothing and that `pc` is a position in the accepted
sequence are the model's own invariants (notes/assumptions/6.md, 2.md). -/
def Obligations.StepKeepsTheInvariants : Prop :=
  (∀ s t : State, s.Inv → step s = .next t → t.Inv) ∧
  (∀ (s : State) (o : Offer), s.Inv → (s.acceptOffer o).1.Inv) ∧
  (∀ s : State, s.Inv → s.assertReset.Inv)

/-- 60_exceptions.md R161: the recorded cause and word always say what the fault was. -/
def Obligations.StepKeepsTheFaultRecord : Prop :=
  (∀ s t : State, s.FaultRecorded → step s = .next t → t.FaultRecorded) ∧
  (∀ s t : State, s.FaultRecorded → step s = .next t → t.err = true → t.ecmd ≠ 0x0000#16)

/-- 10_state.md R44 item 4, 41_checksum_fold.md R116: the accumulators, the events and the count are those of the
spec's function of the accepted words, after every step from every state of which it is true. -/
def Obligations.StepKeepsTheHistory : Prop :=
  ∀ s t : State, s.Inv → s.History → step s = .next t → t.History

/-- 10_state.md R21: no command that passes its checks reads a location that holds no value. -/
def Obligations.NoAbsentValueIsRead : Prop :=
  ∀ (s : State) (i : Instr) (c : Ctx) (t : State), s.Inv → s.err = false → exec i s = .next t → t.err = false →
    (needsOpen i = true → ctxOperand i = some c → (s.accAt c).isSome = true) ∧
    (wantsTable i = true → ∀ j : Byte, t.table.read j = some (entry j))

/-! ## Runs -/

/-- 41_checksum_fold.md R116, 42_combined_and_streaming.md R132, R140: the commands of any pseudo-instruction on context
`c`, with any commands that do not name `c` between them, run from any state that meets the invariants, emit exactly one
checksum event for `c`, the checksum of its bytes, and leave `c` closed, if no command of the run faults. -/
def Obligations.ChecksumSequencesEmitTheChecksum : Prop :=
  ∀ (s : State) (c : Ctx) (d e : List Byte) (p : Pseudo) (is : List Instr) (ws : List CmdWord),
    (p = .checksum c (d ++ e) ∨ p = .checksum2 c d e ∨ p = .checksums c (d ++ e) ∨ p = .checksum2s c d e) →
    p.expand = some is → s.Inv → s.err = false → c.toNat < s.params.nctx → s.prog.drop s.pc = ws →
    ws.filter (namesCtx c) = is.map encode →
    ∃ t, run ws.length s = .next t ∧
      (t.err = false →
        t.actOf c = false ∧
        ∃ new, t.out = s.out ++ new ∧
          new.filter (isCrcOf c) = [{ kind := .crc, id := c.setWidth 8, value := crc32 (d ++ e) }])

/-- 20_memory.md R59: for two runs without a fault whose accepted words have the same subsequence for context `c`, the
checksum events of `c` carry the same values in the same order, whatever the other contexts do. -/
def Obligations.ContextsAreIndependent : Prop :=
  ∀ (s₁ s₂ t₁ t₂ : State) (c : Ctx) (ws₁ ws₂ : List CmdWord),
    s₁.Inv → s₂.Inv → s₁.accAt c = s₂.accAt c → s₁.actOf c = s₂.actOf c →
    s₁.prog.drop s₁.pc = ws₁ → s₂.prog.drop s₂.pc = ws₂ → ws₁.filter (namesCtx c) = ws₂.filter (namesCtx c) →
    run ws₁.length s₁ = .next t₁ → run ws₂.length s₂ = .next t₂ → t₁.err = false → t₂.err = false →
    ∃ new₁ new₂, t₁.out = s₁.out ++ new₁ ∧ t₂.out = s₂.out ++ new₂ ∧
      new₁.filter (isCrcOf c) = new₂.filter (isCrcOf c)

/-- 00_scope.md R10: two engines that differ only in `TABLE_INIT`, `HAS_STREAM` and `PIPE`, given the same accepted
command sequence, produce the same events and the same final registers; and their states at reset are two such. -/
def Obligations.ResultsDoNotDependOnTheTableParameter : Prop :=
  (∀ (k : Nat) (s₁ s₂ : State), s₁.Inv → s₂.Inv → SameResults s₁ s₂ →
    ∃ t₁ t₂, run k s₁ = .next t₁ ∧ run k s₂ = .next t₂ ∧ SameResults t₁ t₂) ∧
  (∀ p₁ p₂ : Params, p₁.nctxM1 = p₂.nctxM1 → SameResults (State.resetOf p₁) (State.resetOf p₂))
end

