-- ==== Sys2Proof/Laws/Memory.lean ====
section
/-! SUPPORT. The laws of the TABLE space: every operation keeps the canonical form, a read after a write, and what
construction leaves. -/

namespace Sys2Proof.Machine

theorem wfFrom_mono {lo lo' : Nat} (h : lo ≤ lo') (t : Memory) (hw : Memory.wfFrom lo' t = true) :
    Memory.wfFrom lo t = true := by
  cases t with
  | nil => rfl
  | cons p rest =>
    simp only [Memory.wfFrom, Bool.and_eq_true, decide_eq_true_eq] at hw ⊢
    exact ⟨⟨by omega, hw.1.2⟩, hw.2⟩

/-- Putting an entry at an index from `lo` on keeps the canonical form. -/
theorem wfFrom_put {lo k : Nat} (v : Word32) (hlo : lo ≤ k) (hk : k < 256) (t : Memory)
    (hw : Memory.wfFrom lo t = true) : Memory.wfFrom lo (Memory.put k v t) = true := by
  induction t generalizing lo with
  | nil => simp [Memory.put, Memory.wfFrom, Config.nEntry, hlo, hk]
  | cons p rest ih =>
    obtain ⟨j, u⟩ := p
    simp only [Memory.wfFrom, Bool.and_eq_true, decide_eq_true_eq] at hw
    obtain ⟨⟨h1, h2⟩, h3⟩ := hw
    unfold Memory.put
    split
    · rename_i hkj
      simp only [Memory.wfFrom, Bool.and_eq_true, decide_eq_true_eq]
      exact ⟨⟨hlo, hk⟩, ⟨by omega, h2⟩, h3⟩
    · split
      · rename_i _ hkj
        subst hkj
        simp [Memory.wfFrom, Config.nEntry, hlo, hk, h3]
      · simp only [Memory.wfFrom, Bool.and_eq_true, decide_eq_true_eq]
        exact ⟨⟨h1, h2⟩, ih (by omega) h3⟩

/-- A write keeps the canonical form. -/
theorem write_wf (t : Memory) (i : Byte) (v : Word32) (h : t.wf = true) : (t.write i v).wf = true :=
  wfFrom_put v (Nat.zero_le _) i.isLt t h

/-- The writes of construction keep the canonical form. -/
theorem fill_wf (is : List Nat) (t : Memory) (h : t.wf = true) : (Memory.fill is t).wf = true := by
  induction is with
  | nil => exact h
  | cons i rest ih => exact write_wf _ _ _ ih

/-- Construction keeps the canonical form. -/
theorem construct_wf (t : Memory) (h : t.wf = true) : t.construct.wf = true := by
  unfold Memory.construct; exact fill_wf _ t h

theorem empty_wf : Memory.wf [] = true := rfl

theorem full_wf : Memory.full.wf = true := construct_wf [] empty_wf

theorem lookup_put_same (k : Nat) (v : Word32) (t : Memory) : Memory.lookup k (Memory.put k v t) = some v := by
  induction t with
  | nil => simp [Memory.put, Memory.lookup]
  | cons p rest ih =>
    unfold Memory.put
    split
    · simp [Memory.lookup]
    · split
      · simp [Memory.lookup]
      · simp [Memory.lookup, *]

theorem lookup_put_other {j k : Nat} (h : j ≠ k) (v : Word32) (t : Memory) :
    Memory.lookup j (Memory.put k v t) = Memory.lookup j t := by
  induction t with
  | nil => simp [Memory.put, Memory.lookup, h]
  | cons p rest ih =>
    unfold Memory.put
    split
    · simp [Memory.lookup, h]
    · split
      · rename_i hk
        subst hk
        simp [Memory.lookup, h]
      · simp [Memory.lookup, ih]

/-- Reading the entry just written gives the value written. -/
@[simp] theorem read_write_same (t : Memory) (i : Byte) (v : Word32) : (t.write i v).read i = some v :=
  lookup_put_same _ _ _

/-- A write leaves every other entry alone. -/
theorem read_write_other (t : Memory) (i j : Byte) (v : Word32) (h : j ≠ i) : (t.write i v).read j = t.read j :=
  lookup_put_other (fun e => h (BitVec.eq_of_toNat_eq e)) _ _

/-- An entry whose index is among those written holds its value. -/
theorem read_fill_mem (is : List Nat) (t : Memory) (j : Byte) (h : j.toNat ∈ is) :
    (Memory.fill is t).read j = some (entry j) := by
  induction is with
  | nil => cases h
  | cons i rest ih =>
    change (Memory.write (Memory.fill rest t) (BitVec.ofNat 8 i) (entry (BitVec.ofNat 8 i))).read j = _
    by_cases hj : j = BitVec.ofNat 8 i
    · subst hj; simp
    · rw [read_write_other _ _ _ _ hj]
      refine ih ((List.mem_cons.1 h).resolve_left fun e => hj ?_)
      rw [← e]; simp

/-- Every entry of a constructed table is `entry(i)`. -/
@[simp] theorem read_construct (t : Memory) (i : Byte) : t.construct.read i = some (entry i) := by
  unfold Memory.construct; exact read_fill_mem _ t i (List.mem_range.2 i.isLt)

@[simp] theorem read_empty (i : Byte) : Memory.read [] i = none := rfl

theorem read_full (i : Byte) : Memory.full.read i = some (entry i) := read_construct [] i

/-- A table in canonical form lists no index below its bound. -/
theorem lookup_below {lo : Nat} (t : Memory) (h : Memory.wfFrom lo t = true) (k : Nat) (hk : k < lo) :
    Memory.lookup k t = none := by
  induction t generalizing lo with
  | nil => rfl
  | cons p rest ih =>
    obtain ⟨j, v⟩ := p
    simp only [Memory.wfFrom, Bool.and_eq_true, decide_eq_true_eq] at h
    simp only [Memory.lookup]
    rw [if_neg (by omega)]
    exact ih h.2 (by omega)

/-- A table in canonical form lists no index from 256 on. -/
theorem lookup_above (t : Memory) (lo : Nat) (h : Memory.wfFrom lo t = true) (k : Nat) (hk : 256 ≤ k) :
    Memory.lookup k t = none := by
  induction t generalizing lo with
  | nil => rfl
  | cons p rest ih =>
    obtain ⟨j, v⟩ := p
    simp only [Memory.wfFrom, Bool.and_eq_true, decide_eq_true_eq] at h
    simp only [Memory.lookup]
    have h2 := h.1.2
    rw [if_neg (by unfold Config.nEntry at h2; omega)]
    exact ih _ h.2

/-- Tables in canonical form that read the same are the same data. -/
theorem memory_ext (t u : Memory) (lo : Nat) (ht : Memory.wfFrom lo t = true) (hu : Memory.wfFrom lo u = true)
    (h : ∀ k, Memory.lookup k t = Memory.lookup k u) : t = u := by
  induction t generalizing u lo with
  | nil =>
    cases u with
    | nil => rfl
    | cons p r => have := h p.1; simp [Memory.lookup] at this
  | cons p r ih =>
    cases u with
    | nil => have := h p.1; simp [Memory.lookup] at this
    | cons q r' =>
      obtain ⟨j, v⟩ := p
      obtain ⟨j', v'⟩ := q
      simp only [Memory.wfFrom, Bool.and_eq_true, decide_eq_true_eq] at ht hu
      have e : j = j' := by
        rcases Nat.lt_trichotomy j j' with g | g | g
        · have := h j
          simp only [Memory.lookup, if_true] at this
          rw [if_neg (by omega), lookup_below r' hu.2 j (by omega)] at this
          cases this
        · exact g
        · have := h j'
          simp only [Memory.lookup, if_true] at this
          rw [if_neg (by omega), lookup_below r ht.2 j' (by omega)] at this
          cases this
      subst e
      have e2 : v = v' := by simpa [Memory.lookup] using h j
      subst e2
      rw [ih r' (j + 1) ht.2 hu.2]
      intro k
      by_cases hk : k = j
      · subst hk
        rw [lookup_below r ht.2 k (by omega), lookup_below r' hu.2 k (by omega)]
      · simpa [Memory.lookup, hk] using h k

end Sys2Proof.Machine
end

