-- ==== Sys2Proof/Laws/State.lean ====
section
/-! SUPPORT. One lemma per field of the state per update of Machine/Ops.lean, so that no proof unfolds a record
update, and what reading one context after writing another gives. -/

namespace Sys2Proof.Machine
@[simp] theorem advancePc_params (s : State) : s.advancePc.params = s.params := rfl
@[simp] theorem advancePc_prog (s : State) : s.advancePc.prog = s.prog := rfl
@[simp] theorem advancePc_pc (s : State) : s.advancePc.pc = s.pc + 1 := rfl
@[simp] theorem advancePc_table (s : State) : s.advancePc.table = s.table := rfl
@[simp] theorem advancePc_tv (s : State) : s.advancePc.tv = s.tv := rfl
@[simp] theorem advancePc_acc (s : State) : s.advancePc.acc = s.acc := rfl
@[simp] theorem advancePc_act (s : State) : s.advancePc.act = s.act := rfl
@[simp] theorem advancePc_err (s : State) : s.advancePc.err = s.err := rfl
@[simp] theorem advancePc_ecause (s : State) : s.advancePc.ecause = s.ecause := rfl
@[simp] theorem advancePc_ecmd (s : State) : s.advancePc.ecmd = s.ecmd := rfl
@[simp] theorem advancePc_cmdcnt (s : State) : s.advancePc.cmdcnt = s.cmdcnt := rfl
@[simp] theorem advancePc_result (s : State) : s.advancePc.result = s.result := rfl
@[simp] theorem advancePc_rsrc (s : State) : s.advancePc.rsrc = s.rsrc := rfl
@[simp] theorem advancePc_rv (s : State) : s.advancePc.rv = s.rv := rfl
@[simp] theorem advancePc_out (s : State) : s.advancePc.out = s.out := rfl

@[simp] theorem countDone_params (s : State) : s.countDone.params = s.params := rfl
@[simp] theorem countDone_prog (s : State) : s.countDone.prog = s.prog := rfl
@[simp] theorem countDone_pc (s : State) : s.countDone.pc = s.pc := rfl
@[simp] theorem countDone_table (s : State) : s.countDone.table = s.table := rfl
@[simp] theorem countDone_tv (s : State) : s.countDone.tv = s.tv := rfl
@[simp] theorem countDone_acc (s : State) : s.countDone.acc = s.acc := rfl
@[simp] theorem countDone_act (s : State) : s.countDone.act = s.act := rfl
@[simp] theorem countDone_err (s : State) : s.countDone.err = s.err := rfl
@[simp] theorem countDone_ecause (s : State) : s.countDone.ecause = s.ecause := rfl
@[simp] theorem countDone_ecmd (s : State) : s.countDone.ecmd = s.ecmd := rfl
@[simp] theorem countDone_cmdcnt (s : State) : s.countDone.cmdcnt = s.cmdcnt + 1#32 := rfl
@[simp] theorem countDone_result (s : State) : s.countDone.result = s.result := rfl
@[simp] theorem countDone_rsrc (s : State) : s.countDone.rsrc = s.rsrc := rfl
@[simp] theorem countDone_rv (s : State) : s.countDone.rv = s.rv := rfl
@[simp] theorem countDone_out (s : State) : s.countDone.out = s.out := rfl

@[simp] theorem writeAcc_params (s : State) (c : Ctx) (v : Option Word32) : (s.writeAcc c v).params = s.params := rfl
@[simp] theorem writeAcc_prog (s : State) (c : Ctx) (v : Option Word32) : (s.writeAcc c v).prog = s.prog := rfl
@[simp] theorem writeAcc_pc (s : State) (c : Ctx) (v : Option Word32) : (s.writeAcc c v).pc = s.pc := rfl
@[simp] theorem writeAcc_table (s : State) (c : Ctx) (v : Option Word32) : (s.writeAcc c v).table = s.table := rfl
@[simp] theorem writeAcc_tv (s : State) (c : Ctx) (v : Option Word32) : (s.writeAcc c v).tv = s.tv := rfl
@[simp] theorem writeAcc_acc (s : State) (c : Ctx) (v : Option Word32) : (s.writeAcc c v).acc = s.acc.set c.toNat v c.isLt := rfl
@[simp] theorem writeAcc_act (s : State) (c : Ctx) (v : Option Word32) : (s.writeAcc c v).act = s.act := rfl
@[simp] theorem writeAcc_err (s : State) (c : Ctx) (v : Option Word32) : (s.writeAcc c v).err = s.err := rfl
@[simp] theorem writeAcc_ecause (s : State) (c : Ctx) (v : Option Word32) : (s.writeAcc c v).ecause = s.ecause := rfl
@[simp] theorem writeAcc_ecmd (s : State) (c : Ctx) (v : Option Word32) : (s.writeAcc c v).ecmd = s.ecmd := rfl
@[simp] theorem writeAcc_cmdcnt (s : State) (c : Ctx) (v : Option Word32) : (s.writeAcc c v).cmdcnt = s.cmdcnt := rfl
@[simp] theorem writeAcc_result (s : State) (c : Ctx) (v : Option Word32) : (s.writeAcc c v).result = s.result := rfl
@[simp] theorem writeAcc_rsrc (s : State) (c : Ctx) (v : Option Word32) : (s.writeAcc c v).rsrc = s.rsrc := rfl
@[simp] theorem writeAcc_rv (s : State) (c : Ctx) (v : Option Word32) : (s.writeAcc c v).rv = s.rv := rfl
@[simp] theorem writeAcc_out (s : State) (c : Ctx) (v : Option Word32) : (s.writeAcc c v).out = s.out := rfl

@[simp] theorem writeAct_params (s : State) (c : Ctx) (a : Bool) : (s.writeAct c a).params = s.params := rfl
@[simp] theorem writeAct_prog (s : State) (c : Ctx) (a : Bool) : (s.writeAct c a).prog = s.prog := rfl
@[simp] theorem writeAct_pc (s : State) (c : Ctx) (a : Bool) : (s.writeAct c a).pc = s.pc := rfl
@[simp] theorem writeAct_table (s : State) (c : Ctx) (a : Bool) : (s.writeAct c a).table = s.table := rfl
@[simp] theorem writeAct_tv (s : State) (c : Ctx) (a : Bool) : (s.writeAct c a).tv = s.tv := rfl
@[simp] theorem writeAct_acc (s : State) (c : Ctx) (a : Bool) : (s.writeAct c a).acc = s.acc := rfl
@[simp] theorem writeAct_act (s : State) (c : Ctx) (a : Bool) : (s.writeAct c a).act = s.act.set c.toNat a c.isLt := rfl
@[simp] theorem writeAct_err (s : State) (c : Ctx) (a : Bool) : (s.writeAct c a).err = s.err := rfl
@[simp] theorem writeAct_ecause (s : State) (c : Ctx) (a : Bool) : (s.writeAct c a).ecause = s.ecause := rfl
@[simp] theorem writeAct_ecmd (s : State) (c : Ctx) (a : Bool) : (s.writeAct c a).ecmd = s.ecmd := rfl
@[simp] theorem writeAct_cmdcnt (s : State) (c : Ctx) (a : Bool) : (s.writeAct c a).cmdcnt = s.cmdcnt := rfl
@[simp] theorem writeAct_result (s : State) (c : Ctx) (a : Bool) : (s.writeAct c a).result = s.result := rfl
@[simp] theorem writeAct_rsrc (s : State) (c : Ctx) (a : Bool) : (s.writeAct c a).rsrc = s.rsrc := rfl
@[simp] theorem writeAct_rv (s : State) (c : Ctx) (a : Bool) : (s.writeAct c a).rv = s.rv := rfl
@[simp] theorem writeAct_out (s : State) (c : Ctx) (a : Bool) : (s.writeAct c a).out = s.out := rfl

@[simp] theorem construct_params (s : State) : s.construct.params = s.params := rfl
@[simp] theorem construct_prog (s : State) : s.construct.prog = s.prog := rfl
@[simp] theorem construct_pc (s : State) : s.construct.pc = s.pc := rfl
@[simp] theorem construct_table (s : State) : s.construct.table = s.table.construct := rfl
@[simp] theorem construct_tv (s : State) : s.construct.tv = true := rfl
@[simp] theorem construct_acc (s : State) : s.construct.acc = s.acc := rfl
@[simp] theorem construct_act (s : State) : s.construct.act = s.act := rfl
@[simp] theorem construct_err (s : State) : s.construct.err = s.err := rfl
@[simp] theorem construct_ecause (s : State) : s.construct.ecause = s.ecause := rfl
@[simp] theorem construct_ecmd (s : State) : s.construct.ecmd = s.ecmd := rfl
@[simp] theorem construct_cmdcnt (s : State) : s.construct.cmdcnt = s.cmdcnt := rfl
@[simp] theorem construct_result (s : State) : s.construct.result = s.result := rfl
@[simp] theorem construct_rsrc (s : State) : s.construct.rsrc = s.rsrc := rfl
@[simp] theorem construct_rv (s : State) : s.construct.rv = s.rv := rfl
@[simp] theorem construct_out (s : State) : s.construct.out = s.out := rfl

@[simp] theorem emit_params (s : State) (k : EventKind) (id : BitVec 8) (v : Word32) : (s.emit k id v).params = s.params := rfl
@[simp] theorem emit_prog (s : State) (k : EventKind) (id : BitVec 8) (v : Word32) : (s.emit k id v).prog = s.prog := rfl
@[simp] theorem emit_pc (s : State) (k : EventKind) (id : BitVec 8) (v : Word32) : (s.emit k id v).pc = s.pc := rfl
@[simp] theorem emit_table (s : State) (k : EventKind) (id : BitVec 8) (v : Word32) : (s.emit k id v).table = s.table := rfl
@[simp] theorem emit_tv (s : State) (k : EventKind) (id : BitVec 8) (v : Word32) : (s.emit k id v).tv = s.tv := rfl
@[simp] theorem emit_acc (s : State) (k : EventKind) (id : BitVec 8) (v : Word32) : (s.emit k id v).acc = s.acc := rfl
@[simp] theorem emit_act (s : State) (k : EventKind) (id : BitVec 8) (v : Word32) : (s.emit k id v).act = s.act := rfl
@[simp] theorem emit_err (s : State) (k : EventKind) (id : BitVec 8) (v : Word32) : (s.emit k id v).err = s.err := rfl
@[simp] theorem emit_ecause (s : State) (k : EventKind) (id : BitVec 8) (v : Word32) : (s.emit k id v).ecause = s.ecause := rfl
@[simp] theorem emit_ecmd (s : State) (k : EventKind) (id : BitVec 8) (v : Word32) : (s.emit k id v).ecmd = s.ecmd := rfl
@[simp] theorem emit_cmdcnt (s : State) (k : EventKind) (id : BitVec 8) (v : Word32) : (s.emit k id v).cmdcnt = s.cmdcnt := rfl
@[simp] theorem emit_result (s : State) (k : EventKind) (id : BitVec 8) (v : Word32) : (s.emit k id v).result = some v := rfl
@[simp] theorem emit_rsrc (s : State) (k : EventKind) (id : BitVec 8) (v : Word32) : (s.emit k id v).rsrc = some (rsrcOf k id) := rfl
@[simp] theorem emit_rv (s : State) (k : EventKind) (id : BitVec 8) (v : Word32) : (s.emit k id v).rv = true := rfl
@[simp] theorem emit_out (s : State) (k : EventKind) (id : BitVec 8) (v : Word32) : (s.emit k id v).out = s.out ++ [{ kind := k, id := id, value := v }] := rfl

@[simp] theorem trap_params (s : State) (cause : Cause) (w : CmdWord) : (s.trap cause w).params = s.params := rfl
@[simp] theorem trap_prog (s : State) (cause : Cause) (w : CmdWord) : (s.trap cause w).prog = s.prog := rfl
@[simp] theorem trap_pc (s : State) (cause : Cause) (w : CmdWord) : (s.trap cause w).pc = s.pc := rfl
@[simp] theorem trap_table (s : State) (cause : Cause) (w : CmdWord) : (s.trap cause w).table = s.table := rfl
@[simp] theorem trap_tv (s : State) (cause : Cause) (w : CmdWord) : (s.trap cause w).tv = s.tv := rfl
@[simp] theorem trap_acc (s : State) (cause : Cause) (w : CmdWord) : (s.trap cause w).acc = s.acc := rfl
@[simp] theorem trap_act (s : State) (cause : Cause) (w : CmdWord) : (s.trap cause w).act = s.act := rfl
@[simp] theorem trap_err (s : State) (cause : Cause) (w : CmdWord) : (s.trap cause w).err = true := rfl
@[simp] theorem trap_ecause (s : State) (cause : Cause) (w : CmdWord) : (s.trap cause w).ecause = cause.code := rfl
@[simp] theorem trap_ecmd (s : State) (cause : Cause) (w : CmdWord) : (s.trap cause w).ecmd = w := rfl
@[simp] theorem trap_cmdcnt (s : State) (cause : Cause) (w : CmdWord) : (s.trap cause w).cmdcnt = s.cmdcnt := rfl
@[simp] theorem trap_result (s : State) (cause : Cause) (w : CmdWord) : (s.trap cause w).result = s.result := rfl
@[simp] theorem trap_rsrc (s : State) (cause : Cause) (w : CmdWord) : (s.trap cause w).rsrc = s.rsrc := rfl
@[simp] theorem trap_rv (s : State) (cause : Cause) (w : CmdWord) : (s.trap cause w).rv = s.rv := rfl
@[simp] theorem trap_out (s : State) (cause : Cause) (w : CmdWord) : (s.trap cause w).out = s.out := rfl

@[simp] theorem ensureTable_params (s : State) : s.ensureTable.params = s.params := by
  unfold State.ensureTable; split <;> rfl
@[simp] theorem ensureTable_prog (s : State) : s.ensureTable.prog = s.prog := by
  unfold State.ensureTable; split <;> rfl
@[simp] theorem ensureTable_pc (s : State) : s.ensureTable.pc = s.pc := by
  unfold State.ensureTable; split <;> rfl
@[simp] theorem ensureTable_acc (s : State) : s.ensureTable.acc = s.acc := by
  unfold State.ensureTable; split <;> rfl
@[simp] theorem ensureTable_act (s : State) : s.ensureTable.act = s.act := by
  unfold State.ensureTable; split <;> rfl
@[simp] theorem ensureTable_err (s : State) : s.ensureTable.err = s.err := by
  unfold State.ensureTable; split <;> rfl
@[simp] theorem ensureTable_ecause (s : State) : s.ensureTable.ecause = s.ecause := by
  unfold State.ensureTable; split <;> rfl
@[simp] theorem ensureTable_ecmd (s : State) : s.ensureTable.ecmd = s.ecmd := by
  unfold State.ensureTable; split <;> rfl
@[simp] theorem ensureTable_cmdcnt (s : State) : s.ensureTable.cmdcnt = s.cmdcnt := by
  unfold State.ensureTable; split <;> rfl
@[simp] theorem ensureTable_result (s : State) : s.ensureTable.result = s.result := by
  unfold State.ensureTable; split <;> rfl
@[simp] theorem ensureTable_rsrc (s : State) : s.ensureTable.rsrc = s.rsrc := by
  unfold State.ensureTable; split <;> rfl
@[simp] theorem ensureTable_rv (s : State) : s.ensureTable.rv = s.rv := by
  unfold State.ensureTable; split <;> rfl
@[simp] theorem ensureTable_out (s : State) : s.ensureTable.out = s.out := by
  unfold State.ensureTable; split <;> rfl
@[simp] theorem ensureTable_tv (s : State) : s.ensureTable.tv = true := by
  unfold State.ensureTable; split <;> simp_all
theorem ensureTable_table (s : State) : s.ensureTable.table = if s.tv then s.table else s.table.construct := by
  unfold State.ensureTable; split <;> rfl
theorem ensureTable_of_tv (s : State) (h : s.tv = true) : s.ensureTable = s := by simp [State.ensureTable, h]
theorem ensureTable_of_not_tv (s : State) (h : s.tv = false) : s.ensureTable = s.construct := by
  simp [State.ensureTable, h]

theorem ctx_toNat_ne (c d : Ctx) (h : d ≠ c) : c.toNat ≠ d.toNat := fun e => h (BitVec.eq_of_toNat_eq e.symm)

@[simp] theorem writeAcc_accAt_same (s : State) (c : Ctx) (v : Option Word32) : (s.writeAcc c v).accAt c = v := by
  simp [State.accAt]
theorem writeAcc_accAt_other (s : State) (c d : Ctx) (v : Option Word32) (h : d ≠ c) :
    (s.writeAcc c v).accAt d = s.accAt d := by
  simp [State.accAt, ctx_toNat_ne c d h]
@[simp] theorem writeAct_actOf_same (s : State) (c : Ctx) (a : Bool) : (s.writeAct c a).actOf c = a := by
  simp [State.actOf]
theorem writeAct_actOf_other (s : State) (c d : Ctx) (a : Bool) (h : d ≠ c) :
    (s.writeAct c a).actOf d = s.actOf d := by
  simp [State.actOf, ctx_toNat_ne c d h]
@[simp] theorem advancePc_accAt (s : State) (d : Ctx) : s.advancePc.accAt d = s.accAt d := rfl
@[simp] theorem countDone_accAt (s : State) (d : Ctx) : s.countDone.accAt d = s.accAt d := rfl
@[simp] theorem writeAct_accAt (s : State) (c : Ctx) (a : Bool) (d : Ctx) : (s.writeAct c a).accAt d = s.accAt d := rfl
@[simp] theorem construct_accAt (s : State) (d : Ctx) : s.construct.accAt d = s.accAt d := rfl
@[simp] theorem emit_accAt (s : State) (k : EventKind) (id : BitVec 8) (v : Word32) (d : Ctx) : (s.emit k id v).accAt d = s.accAt d := rfl
@[simp] theorem trap_accAt (s : State) (cause : Cause) (w : CmdWord) (d : Ctx) : (s.trap cause w).accAt d = s.accAt d := rfl
@[simp] theorem ensureTable_accAt (s : State) (d : Ctx) : s.ensureTable.accAt d = s.accAt d := by
  unfold State.ensureTable; split <;> rfl
@[simp] theorem advancePc_actOf (s : State) (d : Ctx) : s.advancePc.actOf d = s.actOf d := rfl
@[simp] theorem countDone_actOf (s : State) (d : Ctx) : s.countDone.actOf d = s.actOf d := rfl
@[simp] theorem writeAcc_actOf (s : State) (c : Ctx) (v : Option Word32) (d : Ctx) : (s.writeAcc c v).actOf d = s.actOf d := rfl
@[simp] theorem construct_actOf (s : State) (d : Ctx) : s.construct.actOf d = s.actOf d := rfl
@[simp] theorem emit_actOf (s : State) (k : EventKind) (id : BitVec 8) (v : Word32) (d : Ctx) : (s.emit k id v).actOf d = s.actOf d := rfl
@[simp] theorem trap_actOf (s : State) (cause : Cause) (w : CmdWord) (d : Ctx) : (s.trap cause w).actOf d = s.actOf d := rfl
@[simp] theorem ensureTable_actOf (s : State) (d : Ctx) : s.ensureTable.actOf d = s.actOf d := by
  unfold State.ensureTable; split <;> rfl

end Sys2Proof.Machine
end

