-- ==== Sys2Proof/Laws/Command.lean ====
section
/-! SUPPORT. What the frame of a command, a command and a step can do, said once: every command is `runCommand` over
its body, and a body that completes is one of nine updates. -/

namespace Sys2Proof.Machine

/-- The checks and the data action of each command. -/
def bodyOf : Instr → State → Except Cause State
  | .nop, t => .ok t
  | .build, t => .ok t.ensureTable
  | .init c, t => t.onContext c (.ok (t.openCtx c))
  | .final c, t => t.onContext c (t.onOpen c (.ok (t.closeCtx c (invert (t.accOf c)))))
  | .fold c b, t => t.onContext c (t.onOpen c (.ok (t.ensureTable.foldByte c b)))
  | .foldl c b, t => t.onContext c (t.onOpen c (.ok (t.ensureTable.foldClose c b)))
  | .foldf c b, t => t.onContext c (.ok (t.ensureTable.openFold c b))
  | .foldfl c b, t => t.onContext c (.ok (t.ensureTable.openFoldClose c b))
  | .trd i, t => .ok (t.ensureTable.deliverEntry i)

/-- Every command is its body in the frame of a command. -/
theorem exec_eq_runCommand (i : Instr) (s : State) : exec i s = .next (runCommand (encode i) (bodyOf i) s) := by
  cases i <;> rfl

/-- While `ERR = 1` only `pc` moves. -/
theorem runCommand_err (w : CmdWord) (body : State → Except Cause State) (s : State) (h : s.err = true) :
    runCommand w body s = s.advancePc := by simp [runCommand, h]

/-- A body that completes is counted. -/
theorem runCommand_ok (w : CmdWord) (body : State → Except Cause State) (s t : State) (h : s.err = false)
    (hb : body s.advancePc = .ok t) : runCommand w body s = t.countDone := by simp [runCommand, h, hb]

/-- A body that faults leaves only the trap entry. -/
theorem runCommand_error (w : CmdWord) (body : State → Except Cause State) (s : State) (cause : Cause)
    (h : s.err = false) (hb : body s.advancePc = .error cause) :
    runCommand w body s = s.advancePc.trap cause w := by simp [runCommand, h, hb]

/-- The three things the frame of a command can do. -/
theorem runCommand_cases (w : CmdWord) (body : State → Except Cause State) (s : State) :
    (s.err = true ∧ runCommand w body s = s.advancePc) ∨
    (s.err = false ∧ ∃ t, body s.advancePc = .ok t ∧ runCommand w body s = t.countDone) ∨
    (s.err = false ∧ ∃ cause, body s.advancePc = .error cause ∧ runCommand w body s = s.advancePc.trap cause w) := by
  cases he : s.err
  · cases hb : body s.advancePc with
    | ok t => exact .inr (.inl ⟨rfl, t, rfl, runCommand_ok w body s t he hb⟩)
    | error cause => exact .inr (.inr ⟨rfl, cause, rfl, runCommand_error w body s cause he hb⟩)
  · exact .inl ⟨rfl, runCommand_err w body s he⟩

/-- A word that is no command is discarded or faults. -/
theorem rejectWord_eq (cause : Cause) (w : CmdWord) (s : State) :
    rejectWord cause w s = if s.err then s.advancePc else s.advancePc.trap cause w := by
  simp [rejectWord, runCommand]

theorem onContext_yes (s : State) (c : Ctx) (k : Except Cause State) (h : s.params.hasCtx c = true) :
    s.onContext c k = k := by simp [State.onContext, h]
theorem onContext_no (s : State) (c : Ctx) (k : Except Cause State) (h : s.params.hasCtx c = false) :
    s.onContext c k = .error .badContext := by simp [State.onContext, h]
theorem onOpen_yes (s : State) (c : Ctx) (k : Except Cause State) (h : s.actOf c = true) :
    s.onOpen c k = k := by simp [State.onOpen, h]
theorem onOpen_no (s : State) (c : Ctx) (k : Except Cause State) (h : s.actOf c = false) :
    s.onOpen c k = .error .sequence := by simp [State.onOpen, h]

/-- The data action of each command, after its checks. -/
def actionOf : Instr → State → State
  | .nop, t => t
  | .build, t => t.ensureTable
  | .init c, t => t.openCtx c
  | .final c, t => t.closeCtx c (invert (t.accOf c))
  | .fold c b, t => t.ensureTable.foldByte c b
  | .foldl c b, t => t.ensureTable.foldClose c b
  | .foldf c b, t => t.ensureTable.openFold c b
  | .foldfl c b, t => t.ensureTable.openFoldClose c b
  | .trd i, t => t.ensureTable.deliverEntry i

/-- The checks of a command in their order: the context, then the open computation. -/
def checkOf (i : Instr) (t : State) : Option Cause :=
  match ctxOperand i with
  | none => none
  | some c =>
    if t.params.hasCtx c then
      if needsOpen i && !t.actOf c then some .sequence else none
    else some .badContext

/-- A body is its checks, then its action. -/
theorem bodyOf_eq (i : Instr) (t : State) :
    bodyOf i t = match checkOf i t with
      | none => .ok (actionOf i t)
      | some cause => .error cause := by
  cases i with
  | nop => rfl
  | build => rfl
  | trd i => rfl
  | init c =>
    cases h : t.params.hasCtx c <;> simp [bodyOf, checkOf, ctxOperand, needsOpen, actionOf, State.onContext, h]
  | foldf c b =>
    cases h : t.params.hasCtx c <;> simp [bodyOf, checkOf, ctxOperand, needsOpen, actionOf, State.onContext, h]
  | foldfl c b =>
    cases h : t.params.hasCtx c <;> simp [bodyOf, checkOf, ctxOperand, needsOpen, actionOf, State.onContext, h]
  | final c =>
    cases h : t.params.hasCtx c <;> cases h' : t.actOf c <;>
      simp [bodyOf, checkOf, ctxOperand, needsOpen, actionOf, State.onContext, State.onOpen, h, h']
  | fold c b =>
    cases h : t.params.hasCtx c <;> cases h' : t.actOf c <;>
      simp [bodyOf, checkOf, ctxOperand, needsOpen, actionOf, State.onContext, State.onOpen, h, h']
  | foldl c b =>
    cases h : t.params.hasCtx c <;> cases h' : t.actOf c <;>
      simp [bodyOf, checkOf, ctxOperand, needsOpen, actionOf, State.onContext, State.onOpen, h, h']

/-- The three things a command can do: it is discarded, it completes, or it faults. -/
theorem exec_cases (i : Instr) (s t : State) (h : exec i s = .next t) :
    (s.err = true ∧ t = s.advancePc) ∨
    (s.err = false ∧ checkOf i s = none ∧ t = (actionOf i s.advancePc).countDone) ∨
    (s.err = false ∧ ∃ cause, checkOf i s = some cause ∧ t = s.advancePc.trap cause (encode i)) := by
  rw [exec_eq_runCommand] at h
  injection h with h
  subst h
  have hc : checkOf i s.advancePc = checkOf i s := rfl
  rcases runCommand_cases (encode i) (bodyOf i) s with ⟨he, hr⟩ | ⟨he, u, hb, hr⟩ | ⟨he, cause, hb, hr⟩
  · exact .inl ⟨he, hr⟩
  · rw [bodyOf_eq, hc] at hb
    cases hk : checkOf i s with
    | none => rw [hk] at hb; injection hb with hb; exact .inr (.inl ⟨he, rfl, by rw [hr, ← hb]⟩)
    | some cause => rw [hk] at hb; cases hb
  · rw [bodyOf_eq, hc] at hb
    cases hk : checkOf i s with
    | none => rw [hk] at hb; cases hb
    | some cause' => rw [hk] at hb; injection hb with hb; exact .inr (.inr ⟨he, cause, by rw [hb], hr⟩)

/-- Everything a step can do: idle, discard a word, reject a word that is no command, or run a command. -/
theorem step_cases (s t : State) (h : step s = .next t) :
    (s.nextWord = none ∧ t = s) ∨
    (∃ w, s.nextWord = some w ∧ s.err = true ∧ t = s.advancePc) ∨
    (∃ w, s.nextWord = some w ∧ s.err = false ∧
      ((decode w = .illegalOpcode ∧ t = s.advancePc.trap .illegalOpcode w) ∨
       (decode w = .reservedField ∧ t = s.advancePc.trap .reservedField w))) ∨
    (∃ w i, s.nextWord = some w ∧ decode w = .command i ∧ s.err = false ∧ exec i s = .next t) := by
  unfold step at h
  cases hw : s.nextWord with
  | none => rw [hw] at h; injection h with h; exact .inl ⟨rfl, h.symm⟩
  | some w =>
    rw [hw] at h
    simp only [stepWord] at h
    cases he : s.err
    · cases hd : decode w with
      | command i => rw [hd] at h; exact .inr (.inr (.inr ⟨w, i, rfl, hd, rfl, h⟩))
      | illegalOpcode =>
        rw [hd] at h; injection h with h
        exact .inr (.inr (.inl ⟨w, rfl, rfl, .inl ⟨hd, by rw [← h, rejectWord_eq]; simp [he]⟩⟩))
      | reservedField =>
        rw [hd] at h; injection h with h
        exact .inr (.inr (.inl ⟨w, rfl, rfl, .inr ⟨hd, by rw [← h, rejectWord_eq]; simp [he]⟩⟩))
    · refine .inr (.inl ⟨w, rfl, rfl, ?_⟩)
      cases hd : decode w with
      | command i =>
        rw [hd] at h
        rcases exec_cases i s t h with ⟨-, h'⟩ | ⟨h', -⟩ | ⟨h', -⟩
        · exact h'
        · simp [he] at h'
        · simp [he] at h'
      | illegalOpcode => rw [hd] at h; injection h with h; rw [← h, rejectWord_eq]; simp [he]
      | reservedField => rw [hd] at h; injection h with h; rw [← h, rejectWord_eq]; simp [he]

/-- The context check in the words of the rule: which check fails, if any. -/
theorem checkOf_some (i : Instr) (s : State) (c : Ctx) (h : ctxOperand i = some c) :
    checkOf i s = if s.params.nctx ≤ c.toNat then some .badContext
      else if needsOpen i && !s.actOf c then some .sequence else none := by
  simp only [checkOf, h, Params.hasCtx, decide_eq_true_eq]
  by_cases hc : c.toNat < s.params.nctx
  · simp [hc, Nat.not_le.2 hc]
  · simp [hc, Nat.not_lt.1 hc]

theorem checkOf_passes (i : Instr) (s : State) (c : Ctx) (h : ctxOperand i = some c) (hc : c.toNat < s.params.nctx)
    (hn : needsOpen i = true → s.actOf c = true) : checkOf i s = none := by
  rw [checkOf_some i s c h, if_neg (by omega)]
  cases hh : needsOpen i
  · simp
  · simp [hn hh]

theorem checkOf_badContext (i : Instr) (s : State) (c : Ctx) (h : ctxOperand i = some c)
    (hc : s.params.nctx ≤ c.toNat) : checkOf i s = some .badContext := by
  rw [checkOf_some i s c h, if_pos hc]

theorem checkOf_sequence (i : Instr) (s : State) (c : Ctx) (h : ctxOperand i = some c) (hc : c.toNat < s.params.nctx)
    (hn : needsOpen i = true) (ha : s.actOf c = false) : checkOf i s = some .sequence := by
  rw [checkOf_some i s c h, if_neg (by omega)]
  simp [hn, ha]

/-- A command that passes its checks completes with its action. -/
theorem exec_completes (i : Instr) (s : State) (h : s.err = false) (hc : checkOf i s = none) :
    exec i s = .next (actionOf i s.advancePc).countDone := by
  rw [exec_eq_runCommand, runCommand_ok _ _ _ (actionOf i s.advancePc) h]
  rw [bodyOf_eq, show checkOf i s.advancePc = checkOf i s from rfl, hc]

/-- A command that fails a check takes the fault of that check. -/
theorem exec_faults (i : Instr) (s : State) (cause : Cause) (h : s.err = false) (hc : checkOf i s = some cause) :
    exec i s = .next (s.advancePc.trap cause (encode i)) := by
  rw [exec_eq_runCommand, runCommand_error _ _ _ cause h]
  rw [bodyOf_eq, show checkOf i s.advancePc = checkOf i s from rfl, hc]

/-- What no action writes. -/
theorem action_frame (i : Instr) (t : State) :
    (actionOf i t).params = t.params ∧ (actionOf i t).prog = t.prog ∧ (actionOf i t).pc = t.pc ∧
    (actionOf i t).err = t.err ∧ (actionOf i t).ecause = t.ecause ∧ (actionOf i t).ecmd = t.ecmd ∧
    (actionOf i t).cmdcnt = t.cmdcnt := by
  cases i <;> simp [actionOf, State.openCtx, State.closeCtx, State.foldByte, State.foldClose, State.openFold,
    State.openFoldClose, State.deliverEntry]

/-- The events of an action: none, or one that `RESULT` and `RSRC` then show. -/
theorem action_out (i : Instr) (t : State) :
    (producesEvent i = false ∧ (actionOf i t).out = t.out ∧ (actionOf i t).result = t.result ∧
      (actionOf i t).rsrc = t.rsrc ∧ (actionOf i t).rv = t.rv) ∨
    (producesEvent i = true ∧ ∃ e : OutEvent, (actionOf i t).out = t.out ++ [e] ∧
      (actionOf i t).result = some e.value ∧ (actionOf i t).rsrc = some (rsrcOf e.kind e.id) ∧
      (actionOf i t).rv = true ∧ (∀ c, ctxOperand i = some c → e.kind = .crc ∧ e.id = c.setWidth 8) ∧
      (∀ j, i = .trd j → e.kind = .tab ∧ e.id = j)) := by
  cases i <;> simp [producesEvent, actionOf, State.openCtx, State.closeCtx, State.foldByte, State.foldClose,
    State.openFold, State.openFoldClose, State.deliverEntry, ctxOperand, crcId]

/-- The table after an action. -/
theorem action_table (i : Instr) (t : State) :
    (actionOf i t).table = (if wantsTable i then t.ensureTable else t).table ∧
    (actionOf i t).tv = (if wantsTable i then t.ensureTable else t).tv := by
  cases i <;> simp [actionOf, wantsTable, State.openCtx, State.closeCtx, State.foldByte, State.foldClose,
    State.openFold, State.openFoldClose, State.deliverEntry]

/-- An action leaves the contexts its command does not name. -/
theorem action_ctx (i : Instr) (s : State) (d : Ctx) (h : ctxOperand i ≠ some d) :
    (actionOf i s).accAt d = s.accAt d ∧ (actionOf i s).actOf d = s.actOf d := by
  have hne : ∀ c, ctxOperand i = some c → d ≠ c := fun c hc e => h (by rw [hc, e])
  cases i <;> simp only [ctxOperand, Option.some.injEq, forall_eq'] at hne <;>
    simp [actionOf, State.openCtx, State.closeCtx, State.foldByte, State.foldClose, State.openFold,
      State.openFoldClose, State.deliverEntry, writeAcc_accAt_other, writeAct_actOf_other, hne]

end Sys2Proof.Machine
end

