-- ==== Sys2Proof/Laws/Encoding.lean ====
section
/-! SUPPORT. The fields of a word as numbers, and that packing and taking apart are inverse. -/

namespace Sys2Proof

theorem opField_toNat (w : CmdWord) : (opField w).toNat = w.toNat / 4096 := by
  simp only [opField, BitVec.extractLsb'_toNat, Nat.shiftRight_eq_div_pow]
  have := w.isLt
  omega

theorem ctxField_toNat (w : CmdWord) : (ctxField w).toNat = w.toNat / 256 % 16 := by
  simp only [ctxField, BitVec.extractLsb'_toNat, Nat.shiftRight_eq_div_pow]

theorem immField_toNat (w : CmdWord) : (immField w).toNat = w.toNat % 256 := by
  simp only [immField, BitVec.extractLsb'_toNat, Nat.shiftRight_eq_div_pow]
  simp

theorem packWord_toNat (op : BitVec 4) (c : Ctx) (m : Byte) :
    (packWord op c m).toNat = op.toNat * 4096 + c.toNat * 256 + m.toNat := by
  have h1 := c.isLt
  have h2 := m.isLt
  simp only [packWord, BitVec.toNat_append]
  rw [← Nat.shiftLeft_add_eq_or_of_lt (by omega), ← Nat.shiftLeft_add_eq_or_of_lt (by omega)]
  simp only [Nat.shiftLeft_eq]
  omega

/-- The bits of a packed word. -/
theorem packWord_bit (op : BitVec 4) (c : Ctx) (m : Byte) (k : Nat) : (packWord op c m).getLsbD k =
    if k < 8 then m.getLsbD k else if k < 12 then c.getLsbD (k - 8) else op.getLsbD (k - 12) := by
  show (op ++ c ++ m : BitVec (4 + 4 + 8)).getLsbD k = _
  rw [BitVec.getLsbD_append, BitVec.getLsbD_append]
  by_cases h : k < 8
  · simp [h]
  · by_cases h2 : k < 12
    · simp [h, h2, show k - 8 < 4 by omega]
    · simp [h, h2, show ¬(k - 8 < 4) by omega, Nat.sub_sub]

@[simp] theorem opField_pack (op : BitVec 4) (c : Ctx) (m : Byte) : opField (packWord op c m) = op := by
  apply BitVec.eq_of_toNat_eq
  rw [opField_toNat, packWord_toNat]
  have h1 := c.isLt
  have h2 := m.isLt
  omega

@[simp] theorem ctxField_pack (op : BitVec 4) (c : Ctx) (m : Byte) : ctxField (packWord op c m) = c := by
  apply BitVec.eq_of_toNat_eq
  rw [ctxField_toNat, packWord_toNat]
  have h1 := c.isLt
  have h2 := m.isLt
  omega

@[simp] theorem immField_pack (op : BitVec 4) (c : Ctx) (m : Byte) : immField (packWord op c m) = m := by
  apply BitVec.eq_of_toNat_eq
  rw [immField_toNat, packWord_toNat]
  have h1 := c.isLt
  have h2 := m.isLt
  omega

/-- A word is the packing of its fields. -/
theorem pack_fields (w : CmdWord) : packWord (opField w) (ctxField w) (immField w) = w := by
  apply BitVec.eq_of_toNat_eq
  rw [packWord_toNat, opField_toNat, ctxField_toNat, immField_toNat]
  omega

theorem whenZero_command (b : Bool) (i j : Instr) : whenZero b i = .command j ↔ b = true ∧ i = j := by
  cases b <;> simp [whenZero]

end Sys2Proof
end

