-- ==== Sys2Proof/Laws/PerInstr.lean ====
section
/-! SUPPORT. Statements made for every command as syntax, one lemma per constructor: the word of a command is in its row
of the opcode map (30_encoding.md R74). -/

namespace Sys2Proof.Laws.OpcodeRow

/-- The word of the command, masked, is the match of its row. -/
def Statement (i : Instr) : Prop := encode i &&& i.mask = i.matchWord

/-- A packed word keeps its opcode under the mask of the fold group. -/
theorem pack_opcode (op : BitVec 4) (c : Ctx) (m : Byte) : packWord op c m &&& 0xF000#16 = packWord op 0#4 0#8 := by
  apply BitVec.eq_of_getLsbD_eq
  intro k hk
  simp only [BitVec.getLsbD_and, packWord_bit]
  interval_cases k <;> simp

/-- A packed word with a zero byte keeps its opcode under the mask of the context commands. -/
theorem pack_ctx (op : BitVec 4) (c : Ctx) : packWord op c 0#8 &&& 0xF0FF#16 = packWord op 0#4 0#8 := by
  apply BitVec.eq_of_getLsbD_eq
  intro k hk
  simp only [BitVec.getLsbD_and, packWord_bit]
  interval_cases k <;> simp

/-- A packed word with a zero context keeps its opcode under the mask of the index command. -/
theorem pack_index (op : BitVec 4) (m : Byte) : packWord op 0#4 m &&& 0xFF00#16 = packWord op 0#4 0#8 := by
  apply BitVec.eq_of_getLsbD_eq
  intro k hk
  simp only [BitVec.getLsbD_and, packWord_bit]
  interval_cases k <;> simp

theorem nop : Statement .nop := by unfold Statement; decide
theorem build : Statement .build := by unfold Statement; decide
theorem init (c : Ctx) : Statement (.init c) :=
  (pack_ctx 2#4 c).trans (by simp only [Instr.matchWord]; decide)
theorem final (c : Ctx) : Statement (.final c) :=
  (pack_ctx 3#4 c).trans (by simp only [Instr.matchWord]; decide)
theorem fold (c : Ctx) (b : Byte) : Statement (.fold c b) :=
  (pack_opcode 4#4 c b).trans (by simp only [Instr.matchWord]; decide)
theorem foldl (c : Ctx) (b : Byte) : Statement (.foldl c b) :=
  (pack_opcode 5#4 c b).trans (by simp only [Instr.matchWord]; decide)
theorem foldf (c : Ctx) (b : Byte) : Statement (.foldf c b) :=
  (pack_opcode 6#4 c b).trans (by simp only [Instr.matchWord]; decide)
theorem foldfl (c : Ctx) (b : Byte) : Statement (.foldfl c b) :=
  (pack_opcode 7#4 c b).trans (by simp only [Instr.matchWord]; decide)
theorem trd (i : Byte) : Statement (.trd i) :=
  (pack_index 8#4 i).trans (by simp only [Instr.matchWord]; decide)

end Sys2Proof.Laws.OpcodeRow
end

