-- ==== Sys2Proof/Laws/Run.lean ====
section
/-! SUPPORT. A step always answers a next state, and runs one step at a time. -/

namespace Sys2Proof.Machine

/-- A step answers a next state. -/
theorem step_next (s : State) : ∃ t, step s = .next t := by
  unfold step
  cases s.nextWord with
  | none => exact ⟨_, rfl⟩
  | some w =>
    simp only [stepWord]
    cases decode w with
    | command i => exact ⟨_, exec_eq_runCommand i s⟩
    | illegalOpcode => exact ⟨_, rfl⟩
    | reservedField => exact ⟨_, rfl⟩

theorem run_zero (s : State) : run 0 s = .next s := rfl

/-- A run is its first step, then the rest. -/
theorem run_succ (k : Nat) (s t : State) (h : step s = .next t) : run (k + 1) s = run k t := by
  have h' : Sys2Proof.core.step s = .next t := h
  simp only [run, Host.Core.run, h']
  rfl

end Sys2Proof.Machine
end

