-- ==== Sys2Proof/Tests/Slice0.lean ====
section
/-! SUPPORT. The model's own tests: the checks of WellFormed, the words and the worked examples of 95_test_vectors.md
(every expected value is the spec's), and for every statement with hypotheses a state that meets them. -/

namespace Sys2Proof.Tests

open Sys2Proof Sys2Proof.Machine

/-! ## Small states -/

/-- An engine of two contexts whose table is built lazily. -/
def lazyTwo : Params where
  nctxM1 := 1#4
  tableInit := .lazy
  hasStream := true
  pipe := 0#8

/-- An engine of one context. -/
def lazyOne : Params where
  nctxM1 := 0#4
  tableInit := .lazy
  hasStream := false
  pipe := 0#8

/-- The reset state of `lazyTwo` with accepted words. -/
def fresh (ws : List CmdWord) : State := { State.resetOf lazyTwo with prog := ws }

/-- After `INIT 1`, with more words accepted: context 1 is open, context 0 idle. -/
def opened (ws : List CmdWord) : State :=
  { fresh (0x2100#16 :: ws) with
    pc := 1
    acc := (Vector.replicate 16 none).set 1 (some 0xFFFFFFFF#32)
    act := (Vector.replicate 16 false).set 1 true
    cmdcnt := 1#32 }

/-- `opened` with one valid table entry, the one a first fold of `0x31` reads (95_test_vectors.md section 2.3). -/
def openedTable : State := { opened [0x4131#16] with tv := true, table := [(0xCE, 0x7CDCEFB7#32)] }

/-- After `FOLD 1` on an idle context, with more words accepted. -/
def faulted (ws : List CmdWord) : State :=
  { fresh (0x4131#16 :: ws) with pc := 1, err := true, ecause := 4#4, ecmd := 0x4131#16 }

/-- The next state of an outcome. -/
def nextOf : Host.Outcome State Fault Refusal → Option State
  | .next s => some s
  | .fault _ => none
  | .refused _ => none

/-! ## WellFormed -/

theorem test_wf_init : Instr.wellFormed lazyTwo (.init 2#4) = false ∧ Instr.wellFormed lazyTwo (.init 1#4) = true := by
  decide
theorem test_wf_final : Instr.wellFormed lazyOne (.final 1#4) = false := by decide
theorem test_wf_fold : Instr.wellFormed lazyOne (.fold 15#4 0#8) = false := by decide
theorem test_wf_foldl : Instr.wellFormed lazyOne (.foldl 1#4 0#8) = false := by decide
theorem test_wf_foldf : Instr.wellFormed lazyOne (.foldf 1#4 0#8) = false := by decide
theorem test_wf_foldfl : Instr.wellFormed lazyOne (.foldfl 15#4 0x31#8) = false := by decide
theorem test_wf_no_context :
    Instr.wellFormed lazyOne .nop = true ∧ Instr.wellFormed lazyOne .build = true ∧
    Instr.wellFormed lazyOne (.trd 255#8) = true := by decide

/-! ## Decoding: words written out from 30_encoding.md R74 and 95_test_vectors.md section 2.1 -/

theorem test_decode_nop : decode 0b0000000000000000#16 = .command .nop := by decide
theorem test_decode_build : decode 0b0001000000000000#16 = .command .build := by decide
theorem test_decode_init : decode 0b0010111100000000#16 = .command (.init 15#4) := by decide
theorem test_decode_final : decode 0b0011000100000000#16 = .command (.final 1#4) := by decide
theorem test_decode_fold : decode 0b0100000000110001#16 = .command (.fold 0#4 0x31#8) := by decide
theorem test_decode_foldl : decode 0b0101000100111001#16 = .command (.foldl 1#4 0x39#8) := by decide
theorem test_decode_foldf : decode 0b0110000100110001#16 = .command (.foldf 1#4 0x31#8) := by decide
theorem test_decode_foldfl : decode 0b0111111111111111#16 = .command (.foldfl 15#4 0xFF#8) := by decide
theorem test_decode_trd : decode 0b1000000011111111#16 = .command (.trd 255#8) := by decide
theorem test_decode_reserved :
    decode 0x0100#16 = .reservedField ∧ decode 0x1001#16 = .reservedField ∧ decode 0x20FF#16 = .reservedField ∧
    decode 0x3080#16 = .reservedField ∧ decode 0x8F01#16 = .reservedField := by decide
theorem test_decode_illegal :
    decode 0x9000#16 = .illegalOpcode ∧ decode 0x9ABC#16 = .illegalOpcode ∧ decode 0xFFFF#16 = .illegalOpcode := by
  decide
theorem test_encode :
    encode (.init 3#4) = 0x2300#16 ∧ encode (.final 15#4) = 0x3F00#16 ∧ encode (.fold 2#4 0xA5#8) = 0x42A5#16 ∧
    encode (.foldl 0#4 0x39#8) = 0x5039#16 ∧ encode (.foldf 7#4 0#8) = 0x6700#16 ∧
    encode (.foldfl 1#4 0x80#8) = 0x7180#16 ∧ encode (.trd 128#8) = 0x8080#16 := by decide
theorem test_beat_word :
    Beat.word { ctx := 1#4, data := 0x31#8, first := true, last := false } = 0x6131#16 ∧
    Beat.word { ctx := 0#4, data := 0x39#8, first := false, last := true } = 0x5039#16 ∧
    Beat.word { ctx := 2#4, data := 0xFF#8, first := false, last := false } = 0x42FF#16 := by decide
theorem test_decodeTableWord :
    decodeTableWord 16 0x42A5 = some (.fold 2#4 0xA5#8) ∧ decodeTableWord 16 0x9ABC = none := by decide
theorem test_withFetchWord :
    (State.reset.withFetchWord 16 0x2F00).nextWord = some 0x2F00#16 ∧
    ((opened []).withFetchWord 16 0x3100).nextWord = some 0x3100#16 := by decide

/-! ## Single steps: 95_test_vectors.md sections 2.2, 2.3, 2.5, 2.9, 2.10 -/

theorem test_round : crcRound 0xFFFFFFFF#32 = 0x92477CDF#32 ∧ crcRound 0x80000000#32 = 0x40000000#32 := by decide
theorem test_entry : entry 0x4A#8 = 0x9609A88E#32 := by decide
theorem test_fold_value : Machine.fold entry 0xDEADBEEF#32 0xA5#8 = 0x96D70530#32 := by decide
theorem test_crc32_abc : crc32 [0x61#8, 0x62#8, 0x63#8] = 0x352441C2#32 := by decide

theorem test_nop_wraps_count :
    (nextOf (exec .nop { fresh [] with cmdcnt := 0xFFFFFFFF#32 })).map (·.cmdcnt) = some 0#32 := by decide
theorem test_build : (nextOf (exec .build (fresh []))).map (fun t => (t.tv, t.cmdcnt)) = some (true, 1#32) := by decide
theorem test_trd :
    (nextOf (exec (.trd 0xCE#8) openedTable)).map (fun t => (t.result, t.rsrc)) =
      some (some 0x7CDCEFB7#32, some 0x1CE#9) := by decide
theorem test_trd_constructs :
    (nextOf (exec (.trd 128#8) (fresh []))).map (fun t => (t.result, t.tv)) = some (some 0xEDB88320#32, true) := by
  decide +kernel
theorem test_init_status : (nextOf (exec (.init 0#4) (fresh []))).map (·.statusWord) = some 0x00010000#32 := by decide
theorem test_fold :
    (nextOf (exec (.fold 1#4 0x31#8) openedTable)).map (·.accAt 1#4) = some (some 0x7C231048#32) := by decide
theorem test_foldf :
    (nextOf (exec (.foldf 0#4 0x31#8) openedTable)).map (·.accAt 0#4) = some (some 0x7C231048#32) := by decide
theorem test_foldfl :
    (nextOf (exec (.foldfl 1#4 0x31#8) openedTable)).map (fun t => (t.result, t.actOf 1#4)) =
      some (some 0x83DCEFB7#32, false) := by decide
theorem test_foldl :
    (nextOf (exec (.foldl 1#4 0x31#8) openedTable)).map (fun t => (t.result, t.rsrc)) =
      some (some 0x83DCEFB7#32, some 0x001#9) := by decide
theorem test_final :
    (nextOf (exec (.final 1#4) (opened []))).map (fun t => (t.out, t.accAt 1#4)) =
      some ([{ kind := .crc, id := 1#8, value := 0#32 }], none) := by decide

theorem test_fault_illegal : (nextOf (step (fresh [0x9000#16]))).map (·.statusWord) = some 0x00000012#32 := by decide
theorem test_fault_reserved : (nextOf (step (fresh [0x2101#16]))).map (·.statusWord) = some 0x00000022#32 := by decide
theorem test_fault_context : (nextOf (step (fresh [0x4231#16]))).map (·.statusWord) = some 0x00000032#32 := by decide
theorem test_fault_sequence : (nextOf (step (fresh [0x4131#16]))).map (·.statusWord) = some 0x00000042#32 := by decide
theorem test_discard :
    (nextOf (step (faulted [0x9000#16]))).map (fun t => (t.pc, t.ecmd, t.cmdcnt)) = some (2, 0x4131#16, 0#32) := by
  decide

theorem test_status_composition :
    State.statusWord { State.resetOf Params.standard with
      rv := true, act := ((Vector.replicate 16 false).set 0 true).set 3 true } = 0x00090005#32 := by decide
theorem test_config :
    configWord { nctxM1 := 15#4, tableInit := .lazy, hasStream := true, pipe := 3#8 } = 0x0100033F#32 ∧
    configWord { nctxM1 := 3#4, tableInit := .lazy, hasStream := false, pipe := 0#8 } = 0x01000013#32 := by decide

/-! ## The assembler and the pseudo-instructions: 30_encoding.md R85, R86 -/

theorem test_read_byte_forms :
    readLine "FOLD 0, '1'".toList = some (.command (.fold 0#4 0x31#8)) ∧
    readLine "FOLD 0, 0x31 ; one".toList = some (.command (.fold 0#4 0x31#8)) := by decide
theorem test_read_pseudo :
    readLine "CHECKSUM2 0, \"ab\", [0x63]".toList = some (.pseudo (.checksum2 0#4 [0x61#8, 0x62#8] [0x63#8])) := by
  decide
theorem test_read_refuses : readLine "FOLD 16, 0".toList = none ∧ readLine "TRD 256".toList = none := by decide
theorem test_expand_stream :
    Pseudo.expand (.checksum2s 0#4 [1#8] [2#8, 3#8]) = some [.foldf 0#4 1#8, .fold 0#4 2#8, .foldl 0#4 3#8] := by
  decide

/-! ## A state that meets the hypotheses of each statement -/

theorem next_of_exec (i : Instr) (s : State) : ∃ t, exec i s = .next t := ⟨_, exec_eq_runCommand i s⟩

theorem fresh_contexts : ∀ c : Ctx,
    ((fresh []).params.hasCtx c = true → ((fresh []).actOf c = true ↔ ((fresh []).accAt c).isSome = true)) ∧
    ((fresh []).params.hasCtx c = false → (fresh []).accAt c = none ∧ (fresh []).actOf c = false) := by decide

theorem opened_contexts : ∀ c : Ctx,
    ((opened []).params.hasCtx c = true → ((opened []).actOf c = true ↔ ((opened []).accAt c).isSome = true)) ∧
    ((opened []).params.hasCtx c = false → (opened []).accAt c = none ∧ (opened []).actOf c = false) := by decide

/-- The invariants hold of a LAZY reset state with words accepted. -/
theorem fresh_inv (ws : List CmdWord) : (fresh ws).Inv where
  table_canonical := rfl
  table_valid := fun h => by cases h
  table_absent := fun _ _ => rfl
  eager_valid := fun h => by cases h
  act_iff_acc := fun c => (fresh_contexts c).1
  no_such_ctx := fun c => (fresh_contexts c).2
  err_iff_cause := ⟨fun _ => rfl, fun _ => rfl⟩
  no_err_no_cmd := fun _ => rfl
  cause_range := fun h => by cases h
  rv_iff_out := ⟨fun _ => rfl, fun _ => rfl⟩
  no_event_no_result := fun _ => ⟨rfl, rfl⟩
  last_event := fun h => by cases h
  count_is_pc := fun _ => rfl
  event_ctx := fun e h => by cases h
  pc_in_prog := Nat.zero_le _

/-- The invariants hold after `INIT 1`. -/
theorem opened_inv (ws : List CmdWord) : (opened ws).Inv where
  table_canonical := rfl
  table_valid := fun h => by cases h
  table_absent := fun _ _ => rfl
  eager_valid := fun h => by cases h
  act_iff_acc := fun c => (opened_contexts c).1
  no_such_ctx := fun c => (opened_contexts c).2
  err_iff_cause := ⟨fun _ => rfl, fun _ => rfl⟩
  no_err_no_cmd := fun _ => rfl
  cause_range := fun h => by cases h
  rv_iff_out := ⟨fun _ => rfl, fun _ => rfl⟩
  no_event_no_result := fun _ => ⟨rfl, rfl⟩
  last_event := fun h => by cases h
  count_is_pc := fun _ => rfl
  event_ctx := fun e h => by cases h
  pc_in_prog := Nat.succ_le_succ (Nat.zero_le _)

/-- The invariants hold after a fault. -/
theorem faulted_inv (ws : List CmdWord) : (faulted ws).Inv where
  table_canonical := rfl
  table_valid := fun h => by cases h
  table_absent := fun _ _ => rfl
  eager_valid := fun h => by cases h
  act_iff_acc := fun c => (fresh_contexts c).1
  no_such_ctx := fun c => (fresh_contexts c).2
  err_iff_cause := ⟨(fun h => by cases h), (fun h => by cases h)⟩
  no_err_no_cmd := fun h => by cases h
  cause_range := fun _ => ⟨Nat.le_of_ble_eq_true rfl, Nat.le_refl 4⟩
  rv_iff_out := ⟨fun _ => rfl, fun _ => rfl⟩
  no_event_no_result := fun _ => ⟨rfl, rfl⟩
  last_event := fun h => by cases h
  count_is_pc := fun h => by cases h
  event_ctx := fun e h => by cases h
  pc_in_prog := Nat.succ_le_succ (Nat.zero_le _)

theorem opened_accumulators : ∀ c : Ctx, (opened []).params.hasCtx c = true →
    (opened []).accAt c = (openMessage c [0x2100#16]).map (foldseq Config.crcInit) := by decide

/-- The history holds after `INIT 1`. -/
theorem opened_history (ws : List CmdWord) : (opened ws).History :=
  ⟨1, Nat.le_refl _, Nat.succ_le_succ (Nat.zero_le _), fun _ => rfl, (fun h => by cases h), rfl,
    (by decide : [] = eventsFrom [] [0x2100#16]), opened_accumulators⟩

theorem faulted_accumulators : ∀ c : Ctx, (faulted []).params.hasCtx c = true →
    (faulted []).accAt c = (openMessage c []).map (foldseq Config.crcInit) := by decide

/-- The history holds after a fault. -/
theorem faulted_history (ws : List CmdWord) : (faulted ws).History :=
  ⟨0, Nat.zero_le _, Nat.zero_le _, (fun h => by cases h), fun _ => rfl, rfl, rfl, faulted_accumulators⟩

/-- The recorded fault of `faulted` is the one it says. -/
theorem faulted_recorded (ws : List CmdWord) : (faulted ws).FaultRecorded := fun _ =>
  .inr (.inr (.inr ⟨rfl, Instr.fold 1#4 0x31#8, 1#4,
    (by decide : decode 0x4131#16 = .command (.fold 1#4 0x31#8)), rfl, rfl, rfl, rfl⟩))

theorem witness_StepRunsDecodedCommand :
    (opened [0x4131#16]).nextWord = some 0x4131#16 ∧ decode 0x4131#16 = .command (.fold 1#4 0x31#8) := by decide

theorem witness_StepIdlesWithoutCommand :
    (fresh []).nextWord = none ∧ (opened []).nextWord = none ∧ (fresh [0#16]).nextWord ≠ none := by decide

theorem witness_EveryAcceptedCommandAdvancesPc :
    (∃ t, step (fresh [0x9000#16]) = .next t) ∧ (∃ t, step (fresh []) = .next t) ∧ (opened []).ended = true :=
  ⟨step_next _, step_next _, rfl⟩

/-- One word for each answer of the chain: completed without and with a context, and the four causes. -/
theorem witness_ChecksAreMadeInOrder :
    ∀ w ∈ [0x0000#16, 0x2100#16, 0x9000#16, 0x2201#16, 0x4231#16, 0x4131#16],
      (fresh [w]).err = false ∧ (fresh [w]).ecause = 0#4 ∧ (fresh [w]).nextWord = some w ∧
      ∃ t, step (fresh [w]) = .next t :=
  fun _ _ => ⟨rfl, rfl, rfl, step_next _⟩

theorem witness_DecodeAndEncodeAgree : decode 0x80FF#16 = .command (.trd 0xFF#8) := by decide

theorem witness_OpcodeMapIsMatchAndMask :
    (0x4131#16 &&& 0xF000#16 = 0x4000#16 ∧ (0x4000#16, 0xF000#16) ∈ opcodeRows) ∧
    (∀ w : CmdWord, (fresh [w]).err = false ∧ (fresh [w]).nextWord = some w) ∧
    (∀ row ∈ opcodeRows, 0x0001#16 &&& row.2 ≠ row.1) ∧ (∀ row ∈ opcodeRows, 0x8100#16 &&& row.2 ≠ row.1) ∧
    (∀ row ∈ opcodeRows, 0x9000#16 &&& row.2 ≠ row.1) ∧ (∀ row ∈ opcodeRows, 0xFFFF#16 &&& row.2 ≠ row.1) :=
  ⟨by decide, fun _ => ⟨rfl, rfl⟩, by simp [opcodeRows], by simp [opcodeRows], by simp [opcodeRows],
    by simp [opcodeRows]⟩

theorem witness_ReservedOpcodesFault :
    (∀ w : CmdWord, (fresh [w]).err = false ∧ (fresh [w]).nextWord = some w) ∧
    0x9000 ≤ (0x9000#16).toNat ∧ 0x9000 ≤ (0xFFFF#16).toNat :=
  ⟨fun _ => ⟨rfl, rfl⟩, by decide⟩

theorem witness_NonzeroReservedFieldsFault :
    (∀ w : CmdWord, (fresh [w]).err = false ∧ (fresh [w]).nextWord = some w) ∧
    ((0x0001#16).toNat / 4096 = 0 ∧ (0x0001#16).toNat % 4096 ≠ 0) ∧
    ((0x1F00#16).toNat / 4096 = 1 ∧ (0x1F00#16).toNat % 4096 ≠ 0) ∧
    ((0x2001#16).toNat / 4096 = 2 ∧ (0x2001#16).toNat % 256 ≠ 0) ∧
    ((0x30FF#16).toNat / 4096 = 3 ∧ (0x30FF#16).toNat % 256 ≠ 0) ∧
    ((0x8100#16).toNat / 4096 = 8 ∧ (0x8100#16).toNat / 256 % 16 ≠ 0) ∧
    (0x4000#16).toNat / 4096 = 4 ∧ (0x7FFF#16).toNat / 4096 = 7 :=
  ⟨fun _ => ⟨rfl, rfl⟩, by decide⟩

theorem witness_StreamBeatIsItsCommand :
    (0x4000#16).toNat / 0x4000 = 1 ∧ (0x7FFF#16).toNat / 0x4000 = 1 := by decide

theorem witness_CommandPortIsTakenFirst : (fresh []).params.hasStream = true := rfl

theorem witness_NopCountsAndDoesNothing :
    (0x0FFF#16).toNat < 0x1000 ∧ 0x0FFF#16 ≠ 0x0000#16 ∧ (fresh []).err = false ∧
    { fresh [] with cmdcnt := 5#32 }.err = false ∧ { fresh [] with cmdcnt := 5#32 }.cmdcnt = 5#32 := by decide

theorem witness_BuildConstructsAnAbsentTable :
    ((0x1001#16).toNat / 0x1000 = 1 ∧ (0x1001#16).toNat % 0x1000 ≠ 0) ∧ openedTable.err = false ∧
    openedTable.tv = true ∧ (fresh []).err = false ∧ (fresh []).tv = false ∧ (fresh []).table.wf = true := by decide

theorem witness_TableReadDeliversTheEntry :
    ((0x8100#16).toNat / 0x1000 = 8 ∧ (0x8100#16).toNat / 0x100 % 16 ≠ 0) ∧ openedTable.err = false ∧
    openedTable.tv = true ∧ openedTable.table.read 0xCE#8 = some 0x7CDCEFB7#32 ∧ (fresh []).tv = false := by decide

theorem witness_InitOpensItsContext :
    ((0x2001#16).toNat / 0x1000 = 2 ∧ (0x2001#16).toNat % 0x100 ≠ 0) ∧ (fresh []).err = false ∧
    (1#4).toNat < (fresh []).params.nctx ∧ (fresh []).params.nctx ≤ (2#4).toNat := by decide

/-- Context 1 of two is open, context 0 idle, context 2 does not exist; the table is valid, or absent. -/
theorem witness_FoldUpdatesItsAccumulator :
    openedTable.err = false ∧ (1#4).toNat < openedTable.params.nctx ∧ openedTable.actOf 1#4 = true ∧
    openedTable.accAt 1#4 = some 0xFFFFFFFF#32 ∧ openedTable.tv = true ∧
    openedTable.table.read (((0xFFFFFFFF#32 ^^^ (0x31#8).setWidth 32) &&& 0x000000FF#32).setWidth 8) =
      some 0x7CDCEFB7#32 ∧
    (opened []).err = false ∧ (opened []).actOf 1#4 = true ∧ (opened []).accAt 1#4 = some 0xFFFFFFFF#32 ∧
    (opened []).tv = false ∧ (0#4).toNat < (opened []).params.nctx ∧ (opened []).actOf 0#4 = false ∧
    (opened []).params.nctx ≤ (2#4).toNat := by decide

theorem witness_FinalDeliversAndCloses :
    ((0x3080#16).toNat / 0x1000 = 3 ∧ (0x3080#16).toNat % 0x100 ≠ 0) ∧ (opened []).err = false ∧
    (1#4).toNat < (opened []).params.nctx ∧ (opened []).actOf 1#4 = true ∧
    (opened []).accAt 1#4 = some 0xFFFFFFFF#32 ∧ (opened []).actOf 0#4 = false ∧
    (opened []).params.nctx ≤ (2#4).toNat := by decide

theorem witness_FoldFirstOpensAndFolds :
    openedTable.err = false ∧ (0#4).toNat < openedTable.params.nctx ∧ openedTable.tv = true ∧
    openedTable.table.read (0xFF#8 ^^^ 0x31#8) = some 0x7CDCEFB7#32 ∧ (opened []).tv = false ∧
    (opened []).params.nctx ≤ (2#4).toNat := by decide

theorem witness_FoldLastDeliversAndCloses :
    openedTable.err = false ∧ (1#4).toNat < openedTable.params.nctx ∧ openedTable.actOf 1#4 = true ∧
    openedTable.accAt 1#4 = some 0xFFFFFFFF#32 ∧ openedTable.tv = true ∧
    openedTable.table.read (((0xFFFFFFFF#32 ^^^ (0x31#8).setWidth 32) &&& 0x000000FF#32).setWidth 8) =
      some 0x7CDCEFB7#32 ∧
    (opened []).tv = false ∧ (opened []).accAt 1#4 = some 0xFFFFFFFF#32 ∧ (opened []).actOf 0#4 = false ∧
    (opened []).params.nctx ≤ (2#4).toNat := by decide

theorem witness_FoldOnlyDeliversOneByteChecksum :
    openedTable.err = false ∧ (1#4).toNat < openedTable.params.nctx ∧ openedTable.tv = true ∧
    openedTable.table.read (0xFF#8 ^^^ 0x31#8) = some 0x7CDCEFB7#32 ∧ (opened []).tv = false ∧
    (opened []).params.nctx ≤ (2#4).toNat := by decide

theorem witness_EmptySequenceHasChecksumZero :
    (fresh []).err = false ∧ (0#4).toNat < (fresh []).params.nctx := by decide

theorem witness_NoDataValueFaults :
    (opened []).err = false ∧ Instr.wellFormed (opened []).params (.fold 1#4 0#8) = true ∧
    (needsOpen (.fold 1#4 0#8) = true → ∀ c, ctxOperand (.fold 1#4 0#8) = some c → (opened []).actOf c = true) ∧
    Instr.wellFormed (opened []).params (.trd 255#8) = true := by
  refine ⟨rfl, rfl, fun _ c hc => ?_, rfl⟩
  injection hc with hc
  subst hc
  rfl

theorem witness_MissingContextFaults :
    ((fresh []).err = false ∧ ctxOperand (.foldfl 2#4 0x31#8) = some 2#4 ∧
      (fresh []).params.nctx ≤ (2#4).toNat) ∧
    (State.reset.params.nctx = 16 ∧ State.reset.ecause ≠ 3#4 ∧ ∃ t, step State.reset = .next t) ∧
    ((fresh [0x2201#16]).nextWord = some 0x2201#16 ∧ decode 0x2201#16 = .reservedField ∧
      ∃ t, step (fresh [0x2201#16]) = .next t) :=
  ⟨⟨rfl, rfl, by decide⟩, ⟨rfl, by decide, step_next _⟩, ⟨rfl, by decide, step_next _⟩⟩

theorem witness_IdleContextFaults :
    ((opened []).err = false ∧ (0#4).toNat < (opened []).params.nctx ∧ (opened []).actOf 0#4 = false) ∧
    ((fresh []).ecause ≠ 4#4 ∧ ∃ t, exec (.foldf 1#4 0#8) (fresh []) = .next t) :=
  ⟨by decide, by decide, next_of_exec _ _⟩

theorem witness_FaultsArePrecise :
    (fresh [0x4131#16]).err = false ∧ ∃ t, step (fresh [0x4131#16]) = .next t ∧ t.err = true :=
  ⟨rfl, _, rfl, by decide⟩

theorem witness_HaltedEngineDiscardsEveryWord :
    (faulted [0x9000#16]).err = true ∧ (faulted [0x9000#16]).nextWord = some 0x9000#16 ∧
    (faulted [0x9000#16]).pc + 1 ≤ (faulted [0x9000#16]).prog.length := by decide

theorem witness_FaultRegistersChangeOnlyByTrap :
    (∃ t, step (faulted [0x2100#16]) = .next t ∧ (faulted [0x2100#16]).err = true ∧ t.err = true) ∧
    (∃ t, step (fresh [0x2100#16]) = .next t ∧ t.err = (fresh [0x2100#16]).err) :=
  ⟨⟨_, rfl, rfl, by decide⟩, ⟨_, rfl, by decide⟩⟩

theorem witness_OnlyCompletedCommandsAreCounted :
    ((fresh [0x0000#16]).nextWord = some 0x0000#16 ∧ (fresh [0x0000#16]).Inv ∧
      ∃ t, step (fresh [0x0000#16]) = .next t ∧ t.err = false) ∧
    ((faulted [0x0000#16]).nextWord = some 0x0000#16 ∧ (faulted [0x0000#16]).Inv ∧ (faulted [0x0000#16]).History ∧
      ∃ t, step (faulted [0x0000#16]) = .next t ∧ t.err = true) :=
  ⟨⟨rfl, fresh_inv _, _, rfl, by decide⟩, ⟨rfl, faulted_inv _, faulted_history _, _, rfl, by decide⟩⟩

theorem witness_CommandsIgnoreOtherContexts :
    (ctxOperand (.fold 1#4 0x31#8) ≠ some 0#4 ∧ ∃ t, exec (.fold 1#4 0x31#8) (opened []) = .next t) ∧
    (State.resetOf lazyOne).params.nctx = 1 :=
  ⟨⟨by decide, next_of_exec _ _⟩, rfl⟩

theorem witness_EventsComeFromFourCommands :
    (∃ t, exec (.final 1#4) (opened []) = .next t ∧ (opened []).err = false ∧ t.err = false ∧
      producesEvent (.final 1#4) = true ∧ ctxOperand (.final 1#4) = some 1#4) ∧
    (∃ t, exec .nop (opened []) = .next t ∧ producesEvent .nop = false) ∧
    (∃ t, exec (.trd 3#8) (faulted []) = .next t ∧ (faulted []).err = true) :=
  ⟨⟨_, rfl, rfl, by decide, rfl, rfl⟩, ⟨_, rfl, rfl⟩, ⟨_, rfl, rfl⟩⟩

theorem witness_TableFrame :
    (∃ t, exec (.init 1#4) (fresh []) = .next t ∧ wantsTable (.init 1#4) = false) ∧
    (∃ t, exec .build (fresh []) = .next t ∧ wantsTable .build = true ∧ (fresh []).err = false ∧ t.err = false ∧
      (fresh []).tv = false) :=
  ⟨⟨_, rfl, rfl⟩, ⟨_, rfl, rfl, rfl, by decide, rfl⟩⟩

theorem witness_ValidTableNeverChanges :
    openedTable.tv = true ∧ ∃ t, run 1 openedTable = .next t :=
  ⟨rfl, (step_next openedTable).imp fun t h => (run_succ 0 _ t h).trans (run_zero t)⟩

theorem witness_FusedFormsAgreeWithTheirParts :
    (opened []).err = false ∧ (0#4).toNat < (opened []).params.nctx ∧ (1#4).toNat < (opened []).params.nctx := by
  decide

theorem witness_ResetLeavesTheStatedValues :
    State.reset.params.tableInit = .eager ∧ (fresh []).params.tableInit = .lazy := by decide

/-- A step for each clause: `BUILD` sets `TV`, `FINAL` sets `RV` and clears `ACT[1]`, a fault sets `ERR`, `INIT` sets
`ACT[0]`, and the three flags that stay set. -/
theorem witness_FlagsAreSetAndClearedAsTabulated :
    (∃ t, step (fresh [0x1000#16]) = .next t ∧ (fresh [0x1000#16]).tv = false ∧ t.tv = true) ∧
    (∃ t, step (opened [0x3100#16]) = .next t ∧ (opened [0x3100#16]).rv = false ∧ t.rv = true ∧
      (opened [0x3100#16]).actOf 1#4 = true ∧ t.actOf 1#4 = false) ∧
    (∃ t, step (fresh [0x4131#16]) = .next t ∧ (fresh [0x4131#16]).err = false ∧ t.err = true) ∧
    (∃ t, step (fresh [0x2000#16]) = .next t ∧ (fresh [0x2000#16]).actOf 0#4 = false ∧ t.actOf 0#4 = true) ∧
    (openedTable.tv = true ∧ ∃ t, step openedTable = .next t) ∧
    ((faulted [0x0000#16]).err = true ∧ ∃ t, step (faulted [0x0000#16]) = .next t) ∧
    ({ fresh [] with rv := true }.rv = true ∧ ∃ t, step { fresh [] with rv := true } = .next t) :=
  ⟨⟨_, rfl, rfl, by decide⟩, ⟨_, rfl, rfl, by decide, rfl, by decide⟩, ⟨_, rfl, rfl, by decide⟩,
    ⟨_, rfl, by decide, by decide⟩, ⟨rfl, step_next _⟩, ⟨rfl, step_next _⟩, ⟨rfl, step_next _⟩⟩

theorem witness_StatusRegisterFields : (fresh []).Inv ∧ (fresh []).err = false := ⟨fresh_inv _, rfl⟩

theorem witness_StatusRegisterMap :
    { fresh [] with rv := true, result := some 7#32, rsrc := some 0x101#9 }.rv = true ∧
    { fresh [] with rv := true, result := some 7#32, rsrc := some 0x101#9 }.result = some 7#32 ∧
    { fresh [] with rv := true, result := some 7#32, rsrc := some 0x101#9 }.rsrc = some 0x101#9 ∧
    (fresh []).rv = false := by decide

theorem witness_ConfigRegisterFields : ∃ t, step (fresh [0x0000#16]) = .next t := step_next _

theorem witness_ResultPortShowsEachEvent :
    ∃ t e, step (opened [0x3100#16]) = .next t ∧ t.out = (opened [0x3100#16]).out ++ [e] :=
  ⟨_, { kind := .crc, id := 1#8, value := 0#32 }, rfl, by decide⟩

theorem witness_RoundShiftsAndReduces : (1#32).getLsbD 0 = true ∧ (2#32).getLsbD 0 = false := by decide

theorem witness_ConstructionOrderIsUnobservable :
    (List.range 256).reverse.Perm (List.range 256) ∧ (fresh []).table.wf = true :=
  ⟨List.reverse_perm _, rfl⟩

theorem witness_TableIsLinearAndDistinct :
    entry 5#8 = entry 5#8 ∧ (entry 5#8).extractLsb' 24 8 = (entry 5#8).extractLsb' 24 8 := ⟨rfl, rfl⟩

theorem witness_FoldLaws : (7 < 8) ∧ (8 ≤ 8 ∧ 8 < 32) ∧ (8 ≤ 31 ∧ 31 < 32) := by decide

theorem witness_OneChangedByteChangesTheChecksum : 0x31#8 ≠ 0x30#8 ∧ 7 < 8 := by decide

theorem witness_StepKeepsTheInvariants :
    ((opened [0x4131#16]).Inv ∧ ∃ t, step (opened [0x4131#16]) = .next t) ∧
    ((faulted [0x0000#16]).Inv ∧ ∃ t, step (faulted [0x0000#16]) = .next t) :=
  ⟨⟨opened_inv _, step_next _⟩, ⟨faulted_inv _, step_next _⟩⟩

theorem witness_StepKeepsTheFaultRecord :
    (faulted [0x0000#16]).FaultRecorded ∧ ∃ t, step (faulted [0x0000#16]) = .next t ∧ t.err = true :=
  ⟨faulted_recorded _, _, rfl, by decide⟩

theorem witness_StepKeepsTheHistory :
    ((opened [0x4131#16]).Inv ∧ (opened [0x4131#16]).History ∧ ∃ t, step (opened [0x4131#16]) = .next t) ∧
    ((faulted [0x0000#16]).Inv ∧ (faulted [0x0000#16]).History ∧ ∃ t, step (faulted [0x0000#16]) = .next t) :=
  ⟨⟨opened_inv _, opened_history _, step_next _⟩, ⟨faulted_inv _, faulted_history _, step_next _⟩⟩

theorem witness_NoAbsentValueIsRead :
    ∃ t, (opened []).Inv ∧ (opened []).err = false ∧ exec (.fold 1#4 0x31#8) (opened []) = .next t ∧ t.err = false ∧
      needsOpen (.fold 1#4 0x31#8) = true ∧ ctxOperand (.fold 1#4 0x31#8) = some 1#4 ∧
      wantsTable (.fold 1#4 0x31#8) = true :=
  ⟨_, opened_inv _, rfl, rfl, by decide, rfl, rfl, rfl⟩

/-- The plain form, with a command of another context between its two, and the stream form; both runs end with
`ERR = 0`. -/
theorem witness_ChecksumSequencesEmitTheChecksum :
    (Pseudo.expand (.checksum2 0#4 [] []) = some [.init 0#4, .final 0#4] ∧ (opened [0x2000#16, 0x3100#16, 0x3000#16]).Inv ∧
      (opened [0x2000#16, 0x3100#16, 0x3000#16]).err = false ∧
      (0#4).toNat < (opened [0x2000#16, 0x3100#16, 0x3000#16]).params.nctx ∧
      (opened [0x2000#16, 0x3100#16, 0x3000#16]).prog.drop (opened [0x2000#16, 0x3100#16, 0x3000#16]).pc =
        [0x2000#16, 0x3100#16, 0x3000#16] ∧
      [0x2000#16, 0x3100#16, 0x3000#16].filter (namesCtx 0#4) = [.init 0#4, .final 0#4].map encode ∧
      ∃ t, run 3 (opened [0x2000#16, 0x3100#16, 0x3000#16]) = .next t ∧ t.err = false) ∧
    (Pseudo.expand (.checksums 1#4 [0x31#8]) = some [.foldfl 1#4 0x31#8] ∧ (fresh [0x7131#16]).Inv ∧
      (fresh [0x7131#16]).prog.drop (fresh [0x7131#16]).pc = [0x7131#16] ∧
      (fresh [0x7131#16]).err = false ∧ (1#4).toNat < (fresh [0x7131#16]).params.nctx ∧
      [0x7131#16].filter (namesCtx 1#4) = [.foldfl 1#4 0x31#8].map encode ∧
      ∃ t, run 1 (fresh [0x7131#16]) = .next t ∧ t.err = false) :=
  ⟨⟨rfl, opened_inv _, rfl, by decide, rfl, by decide, _, rfl, by decide⟩,
    ⟨rfl, fresh_inv _, rfl, rfl, by decide, by decide, _, rfl, by decide⟩⟩

theorem witness_ContextsAreIndependent :
    (opened [0x3100#16]).Inv ∧ (opened [0x2000#16, 0x3100#16]).Inv ∧
    (opened [0x3100#16]).accAt 1#4 = (opened [0x2000#16, 0x3100#16]).accAt 1#4 ∧
    (opened [0x3100#16]).actOf 1#4 = (opened [0x2000#16, 0x3100#16]).actOf 1#4 ∧
    (opened [0x3100#16]).prog.drop (opened [0x3100#16]).pc = [0x3100#16] ∧
    (opened [0x2000#16, 0x3100#16]).prog.drop (opened [0x2000#16, 0x3100#16]).pc = [0x2000#16, 0x3100#16] ∧
    [0x3100#16].filter (namesCtx 1#4) = [0x2000#16, 0x3100#16].filter (namesCtx 1#4) ∧
    (∃ t, run 1 (opened [0x3100#16]) = .next t ∧ t.err = false) ∧
    (∃ t, run 2 (opened [0x2000#16, 0x3100#16]) = .next t ∧ t.err = false) :=
  ⟨opened_inv _, opened_inv _, rfl, rfl, rfl, rfl, by decide, ⟨_, rfl, by decide⟩, ⟨_, rfl, by decide⟩⟩

theorem witness_ResultsDoNotDependOnTheTableParameter :
    (opened [0x4131#16]).Inv ∧ SameResults (opened [0x4131#16]) (opened [0x4131#16]) ∧
    (State.resetOf Params.standard).params.nctxM1 =
      (State.resetOf { Params.standard with tableInit := .lazy, hasStream := false }).params.nctxM1 :=
  ⟨opened_inv _, by constructor <;> rfl, rfl⟩

end Sys2Proof.Tests
end

section
/-! PROOFS. 00_scope.md R10: engines that differ only in `TABLE_INIT`, `HAS_STREAM` and `PIPE` give the same results. A
command reads an entry only after `ensure_table()`, where every engine reads `entry(i)`; nothing else that a step reads
depends on those parameters. -/

namespace Sys2Proof.Machine

/-! ## The table that a command reads -/

/-- While `TV = 1`, every entry of the table is the constructed one (10_state.md R44): the part of the invariants that
decides what a command reads. -/
def State.TableSound (s : State) : Prop := s.tv = true → ∀ i : Byte, s.table.read i = some (entry i)

theorem State.Inv.tableSound {s : State} (h : s.Inv) : s.TableSound := h.table_valid

theorem construct_tableSound (s : State) : s.construct.TableSound := fun _ => read_construct s.table

theorem ensureTable_tableSound {s : State} (h : s.TableSound) : s.ensureTable.TableSound := by
  cases htv : s.tv
  · rw [ensureTable_of_not_tv s htv]; exact construct_tableSound s
  · rwa [ensureTable_of_tv s htv]

/-- After `ensure_table()` a command reads the constructed table, whatever the engine held before. -/
theorem ensureTable_tabRead {s : State} (h : s.TableSound) : s.ensureTable.tabRead = entry := by
  funext i
  simp [State.tabRead, ensureTable_tableSound h (ensureTable_tv s) i]

/-- `TableSound` speaks of the table and `TV` alone. -/
theorem tableSound_congr {s t : State} (htable : t.table = s.table) (htv : t.tv = s.tv) (h : s.TableSound) :
    t.TableSound := by
  simpa only [State.TableSound, htable, htv] using h

theorem action_keeps_tableSound (i : Instr) {s : State} (h : s.TableSound) : (actionOf i s).TableSound := by
  obtain ⟨htable, htv⟩ := action_table i s
  refine tableSound_congr htable htv ?_
  split
  · exact ensureTable_tableSound h
  · exact h

theorem exec_keeps_tableSound (i : Instr) {s t : State} (h : s.TableSound) (hx : exec i s = .next t) :
    t.TableSound := by
  obtain ⟨-, rfl⟩ | ⟨-, -, rfl⟩ | ⟨-, cause, -, rfl⟩ := exec_cases i s t hx
  · exact h
  · exact action_keeps_tableSound i (s := s.advancePc) h
  · exact h

theorem step_keeps_tableSound {s t : State} (h : s.TableSound) (hx : step s = .next t) : t.TableSound := by
  obtain ⟨-, rfl⟩ | ⟨w, -, -, rfl⟩ | ⟨w, -, -, ⟨-, rfl⟩ | ⟨-, rfl⟩⟩ | ⟨w, i, -, -, -, hi⟩ := step_cases s t hx
  · exact h
  · exact h
  · exact h
  · exact h
  · exact exec_keeps_tableSound i h hi

/-! ## What two agreeing engines read, and the updates that keep them agreeing -/

namespace SameResults

variable {s t : State}

theorem hasCtx_eq (h : SameResults s t) (c : Ctx) : s.params.hasCtx c = t.params.hasCtx c := by
  rw [Params.hasCtx, Params.hasCtx, Params.nctx, Params.nctx, h.nctx]

theorem actOf_eq (h : SameResults s t) (c : Ctx) : s.actOf c = t.actOf c := by simp only [State.actOf, h.act]

theorem accOf_eq (h : SameResults s t) (c : Ctx) : s.accOf c = t.accOf c := by
  simp only [State.accOf, State.accAt, h.acc]

theorem nextWord_eq (h : SameResults s t) : s.nextWord = t.nextWord := by simp only [State.nextWord, h.prog, h.pc]

theorem checkOf_eq (h : SameResults s t) (i : Instr) : checkOf i s = checkOf i t := by
  cases hc : ctxOperand i with
  | none => simp only [checkOf, hc]
  | some c => simp only [checkOf, hc, h.hasCtx_eq, h.actOf_eq]

theorem advancePc (h : SameResults s t) : SameResults s.advancePc t.advancePc :=
  { h with pc := congrArg (· + 1) h.pc }

theorem countDone (h : SameResults s t) : SameResults s.countDone t.countDone :=
  { h with cmdcnt := congrArg (· + 1#32) h.cmdcnt }

theorem trap (h : SameResults s t) (cause : Cause) (w : CmdWord) : SameResults (s.trap cause w) (t.trap cause w) :=
  { h with err := rfl, ecause := rfl, ecmd := rfl }

theorem writeAcc (h : SameResults s t) (c : Ctx) (v : Option Word32) :
    SameResults (s.writeAcc c v) (t.writeAcc c v) :=
  { h with acc := by simp [h.acc] }

theorem writeAct (h : SameResults s t) (c : Ctx) (a : Bool) : SameResults (s.writeAct c a) (t.writeAct c a) :=
  { h with act := by simp [h.act] }

theorem emit (h : SameResults s t) (k : EventKind) (id : BitVec 8) (v : Word32) :
    SameResults (s.emit k id v) (t.emit k id v) :=
  { h with result := rfl, rsrc := rfl, rv := rfl, out := by simp [h.out] }

/-- Construction writes nothing that two engines must agree on, so it may happen on one of them only. -/
theorem ensureTable (h : SameResults s t) : SameResults s.ensureTable t.ensureTable := by
  constructor <;> simp [h.nctx, h.prog, h.pc, h.acc, h.act, h.err, h.ecause, h.ecmd, h.cmdcnt, h.result, h.rsrc,
    h.rv, h.out]

theorem openCtx (h : SameResults s t) (c : Ctx) : SameResults (s.openCtx c) (t.openCtx c) :=
  (h.writeAcc c _).writeAct c true

theorem closeCtx (h : SameResults s t) (c : Ctx) (v : Word32) : SameResults (s.closeCtx c v) (t.closeCtx c v) :=
  ((h.emit .crc (crcId c) v).writeAcc c none).writeAct c false

/-! ## Commands and steps -/

/-- Every action keeps two engines agreeing: its table reads come after `ensure_table()`. -/
theorem action (h : SameResults s t) (hs : s.TableSound) (ht : t.TableSound) (i : Instr) :
    SameResults (actionOf i s) (actionOf i t) := by
  have hread : s.ensureTable.tabRead = t.ensureTable.tabRead :=
    (ensureTable_tabRead hs).trans (ensureTable_tabRead ht).symm
  have he := h.ensureTable
  cases i with
  | nop => exact h
  | build => exact he
  | init c => exact h.openCtx c
  | final c =>
    simp only [actionOf, h.accOf_eq]
    exact h.closeCtx c _
  | fold c b =>
    simp only [actionOf, State.foldByte, hread, he.accOf_eq]
    exact he.writeAcc c _
  | foldl c b =>
    simp only [actionOf, State.foldClose, hread, he.accOf_eq]
    exact he.closeCtx c _
  | foldf c b =>
    simp only [actionOf, State.openFold, hread]
    exact (he.writeAcc c _).writeAct c true
  | foldfl c b =>
    simp only [actionOf, State.openFoldClose, hread]
    exact he.closeCtx c _
  | trd j =>
    simp only [actionOf, State.deliverEntry, hread]
    exact he.emit .tab j _

/-- The two engines do the same of the three things a command can do. -/
theorem exec (h : SameResults s t) (hs : s.TableSound) (ht : t.TableSound) (i : Instr) :
    ∃ s' t', exec i s = .next s' ∧ exec i t = .next t' ∧ SameResults s' t' := by
  cases he : t.err with
  | true =>
    refine ⟨_, _, exec_eq_runCommand i s, exec_eq_runCommand i t, ?_⟩
    rw [runCommand_err _ _ s (h.err.trans he), runCommand_err _ _ t he]
    exact h.advancePc
  | false =>
    have hse : s.err = false := h.err.trans he
    cases hc : checkOf i t with
    | none =>
      exact ⟨_, _, exec_completes i s hse ((h.checkOf_eq i).trans hc), exec_completes i t he hc,
        (h.advancePc.action hs ht i).countDone⟩
    | some cause =>
      exact ⟨_, _, exec_faults i s cause hse ((h.checkOf_eq i).trans hc), exec_faults i t cause he hc,
        h.advancePc.trap cause _⟩

theorem rejectWord (h : SameResults s t) (cause : Cause) (w : CmdWord) :
    SameResults (rejectWord cause w s) (rejectWord cause w t) := by
  rw [rejectWord_eq, rejectWord_eq, h.err]
  split
  · exact h.advancePc
  · exact h.advancePc.trap cause w

theorem stepWord (h : SameResults s t) (hs : s.TableSound) (ht : t.TableSound) (w : CmdWord) :
    ∃ s' t', stepWord w s = .next s' ∧ stepWord w t = .next t' ∧ SameResults s' t' := by
  unfold Machine.stepWord
  cases decode w with
  | command i => exact h.exec hs ht i
  | illegalOpcode => exact ⟨_, _, rfl, rfl, h.rejectWord _ w⟩
  | reservedField => exact ⟨_, _, rfl, rfl, h.rejectWord _ w⟩

theorem step (h : SameResults s t) (hs : s.TableSound) (ht : t.TableSound) :
    ∃ s' t', step s = .next s' ∧ step t = .next t' ∧ SameResults s' t' := by
  unfold Machine.step
  rw [h.nextWord_eq]
  cases t.nextWord with
  | none => exact ⟨s, t, rfl, rfl, h⟩
  | some w => exact h.stepWord hs ht w

theorem run (k : Nat) {s t : State} (h : SameResults s t) (hs : s.TableSound) (ht : t.TableSound) :
    ∃ s' t', run k s = .next s' ∧ run k t = .next t' ∧ SameResults s' t' := by
  induction k generalizing s t with
  | zero => exact ⟨s, t, run_zero s, run_zero t, h⟩
  | succ k ih =>
    obtain ⟨s₁, t₁, hs₁, ht₁, h₁⟩ := h.step hs ht
    rw [run_succ k s s₁ hs₁, run_succ k t t₁ ht₁]
    exact ih h₁ (step_keeps_tableSound hs hs₁) (step_keeps_tableSound ht ht₁)

end SameResults

theorem resetOf_sameResults {p₁ p₂ : Params} (h : p₁.nctxM1 = p₂.nctxM1) :
    SameResults (State.resetOf p₁) (State.resetOf p₂) := by
  constructor
  case nctx => exact h
  all_goals rfl

/-- Settles O58: by induction on the number of steps, each of which keeps the agreement and the soundness of the two
tables. -/
theorem resultsDoNotDependOnTheTableParameter : Obligations.ResultsDoNotDependOnTheTableParameter :=
  ⟨fun k _ _ hinv₁ hinv₂ h => h.run k hinv₁.tableSound hinv₂.tableSound, fun _ _ => resetOf_sameResults⟩

end Sys2Proof.Machine

namespace Sys2Proof.Tests

open Sys2Proof Sys2Proof.Machine

/-- `opened` on an engine with an eager table and no stream port: `TV = 1` and the whole table, where `opened` has
`TV = 0` and none. -/
def openedEager (ws : List CmdWord) : State :=
  { (opened ws).construct with params := { lazyTwo with tableInit := .eager, hasStream := false } }

theorem openedEager_inv (ws : List CmdWord) : (openedEager ws).Inv :=
  { opened_inv ws with
    table_canonical := construct_wf _ (opened_inv ws).table_canonical
    table_valid := fun _ => read_construct (opened ws).table
    table_absent := nofun
    eager_valid := fun _ => rfl }

theorem opened_sameResults_openedEager (ws : List CmdWord) : SameResults (opened ws) (openedEager ws) := by
  constructor <;> rfl

/-- O58 on a pair that differs in `TABLE_INIT`, `HAS_STREAM`, `TV` and the table: a fold and the checksum agree. -/
theorem lazy_and_eager_engines_agree_on_a_checksum :
    (opened [0x4131#16, 0x3100#16]).tv = false ∧ (openedEager [0x4131#16, 0x3100#16]).tv = true ∧
    ∃ t₁ t₂, run 2 (opened [0x4131#16, 0x3100#16]) = .next t₁ ∧
      run 2 (openedEager [0x4131#16, 0x3100#16]) = .next t₂ ∧ SameResults t₁ t₂ :=
  ⟨rfl, rfl, resultsDoNotDependOnTheTableParameter.1 2 _ _ (opened_inv _) (openedEager_inv _)
    (opened_sameResults_openedEager _)⟩

end Sys2Proof.Tests
end

section
/-! PROOFS. What one step can do, as one predicate with a case per way to go on, and what every step leaves unchanged
(43_system_and_sequencing.md R154, R155). -/

namespace Sys2Proof.Machine

/-! ## The word of a command -/

/-- The word a command is decoded from is its encoding, so a fault of a command records the accepted word
(30_encoding.md R80). -/
theorem encode_of_decode {w : CmdWord} {i : Instr} (h : decode w = .command i) : encode i = w := by
  have hop : ∀ k < 16, (opField w).toNat = k → opField w = BitVec.ofNat 4 k := fun k hk e =>
    BitVec.eq_of_toNat_eq (by simp [e, Nat.mod_eq_of_lt hk])
  conv_rhs => rw [← pack_fields w]
  unfold decode at h
  split at h <;> simp only [whenZero_command, Bool.and_eq_true, beq_iff_eq, Decoded.command.injEq, reduceCtorEq] at h
  case h_1 e => obtain ⟨⟨hc, hm⟩, rfl⟩ := h; rw [hop 0 (by decide) e, hc, hm]; rfl
  case h_2 e => obtain ⟨⟨hc, hm⟩, rfl⟩ := h; rw [hop 1 (by decide) e, hc, hm]; rfl
  case h_3 e => obtain ⟨hm, rfl⟩ := h; rw [hop 2 (by decide) e, hm]; rfl
  case h_4 e => obtain ⟨hm, rfl⟩ := h; rw [hop 3 (by decide) e, hm]; rfl
  case h_5 e => subst h; rw [hop 4 (by decide) e]; rfl
  case h_6 e => subst h; rw [hop 5 (by decide) e]; rfl
  case h_7 e => subst h; rw [hop 6 (by decide) e]; rfl
  case h_8 e => subst h; rw [hop 7 (by decide) e]; rfl
  case h_9 e => obtain ⟨hc, rfl⟩ := h; rw [hop 8 (by decide) e, hc]; rfl

/-! ## The four ways to go on -/

/-- A step leads from `s` to the state named: it idles, discards a word, takes the fault of a word, or completes a
command. -/
inductive StepsTo (s : State) : State → Prop
  | idle (hw : s.nextWord = none) : StepsTo s s
  | discard (w : CmdWord) (hw : s.nextWord = some w) (he : s.err = true) : StepsTo s s.advancePc
  | fault (w : CmdWord) (cause : Cause) (hw : s.nextWord = some w) (he : s.err = false) :
    StepsTo s (s.advancePc.trap cause w)
  | complete (w : CmdWord) (i : Instr) (hw : s.nextWord = some w) (hd : decode w = .command i) (he : s.err = false)
    (hc : checkOf i s = none) : StepsTo s (actionOf i s.advancePc).countDone

/-- Every step is one of the four. -/
theorem stepsTo_of_step {s t : State} (h : step s = .next t) : StepsTo s t := by
  obtain ⟨hw, rfl⟩ | ⟨w, hw, he, rfl⟩ | ⟨w, hw, he, ⟨-, rfl⟩ | ⟨-, rfl⟩⟩ |
    ⟨w, i, hw, hd, he, hx⟩ := step_cases s t h
  · exact .idle hw
  · exact .discard w hw he
  · exact .fault w .illegalOpcode hw he
  · exact .fault w .reservedField hw he
  · obtain ⟨he', -⟩ | ⟨-, hc, rfl⟩ | ⟨-, cause, -, rfl⟩ := exec_cases i s t hx
    · simp [he] at he'
    · exact .complete w i hw hd he hc
    · rw [encode_of_decode hd]
      exact .fault w cause hw he

/-- A word stands next exactly where `pc` has not reached the end of the accepted sequence. -/
theorem pc_lt_of_nextWord {s : State} {w : CmdWord} (h : s.nextWord = some w) : s.pc < s.prog.length :=
  (List.getElem?_eq_some_iff.1 h).1

theorem le_pc_of_nextWord_none {s : State} (h : s.nextWord = none) : s.prog.length ≤ s.pc :=
  List.getElem?_eq_none_iff.1 h

/-- The codes of the causes are 1 to 4 (60_exceptions.md R161). -/
theorem cause_code_range (cause : Cause) : 1 ≤ cause.code.toNat ∧ cause.code.toNat ≤ 4 := by
  cases cause <;> decide

theorem cause_code_ne_zero (cause : Cause) : cause.code ≠ 0#4 := by
  cases cause <;> decide

/-! ## What an action does to the fields no action writes -/

section
variable (i : Instr) (s : State)

@[simp] theorem actionOf_params : (actionOf i s).params = s.params := (action_frame i s).1
@[simp] theorem actionOf_prog : (actionOf i s).prog = s.prog := (action_frame i s).2.1
@[simp] theorem actionOf_pc : (actionOf i s).pc = s.pc := (action_frame i s).2.2.1
@[simp] theorem actionOf_err : (actionOf i s).err = s.err := (action_frame i s).2.2.2.1
@[simp] theorem actionOf_ecause : (actionOf i s).ecause = s.ecause := (action_frame i s).2.2.2.2.1
@[simp] theorem actionOf_ecmd : (actionOf i s).ecmd = s.ecmd := (action_frame i s).2.2.2.2.2.1
@[simp] theorem actionOf_cmdcnt : (actionOf i s).cmdcnt = s.cmdcnt := (action_frame i s).2.2.2.2.2.2

end

/-- No action clears `TV`, and one that finds it set leaves the table (10_state.md R27). -/
theorem actionOf_of_tv (i : Instr) {s : State} (h : s.tv = true) :
    (actionOf i s).tv = true ∧ (actionOf i s).table = s.table := by
  obtain ⟨htable, htv⟩ := action_table i s
  rw [htable, htv, ensureTable_of_tv s h, ite_self]
  exact ⟨h, rfl⟩

/-- An action that leaves `TV = 0` has found it so, and leaves the table. -/
theorem actionOf_of_not_tv {i : Instr} {s : State} (h : (actionOf i s).tv = false) :
    wantsTable i = false ∧ s.tv = false ∧ (actionOf i s).table = s.table := by
  obtain ⟨htable, htv⟩ := action_table i s
  rw [htv] at h
  rw [htable]
  cases hw : wantsTable i
  · exact ⟨rfl, by simpa [hw] using h, by simp⟩
  · simp [hw] at h

/-- A command that passes its checks names, if any, a context that exists, and where it needs it an open one. -/
theorem ctx_of_checkOf_none {i : Instr} {s : State} {c : Ctx} (hc : checkOf i s = none) (hi : ctxOperand i = some c) :
    s.params.hasCtx c = true ∧ (needsOpen i = true → s.actOf c = true) := by
  rw [checkOf_some i s c hi] at hc
  split at hc
  · cases hc
  next hlt =>
    split at hc
    · cases hc
    next hopen => exact ⟨decide_eq_true (Nat.not_le.1 hlt), by simpa using hopen⟩

end Sys2Proof.Machine
end

section
/-! PROOFS. The invariants of 10_state.md R44: reset meets them, and every step and transfer keeps them. -/

namespace Sys2Proof.Machine

/-! ## Reset -/

@[simp] theorem resetOf_accAt (p : Params) (c : Ctx) : (State.resetOf p).accAt c = none := by
  simp [State.accAt, State.resetOf]

@[simp] theorem resetOf_actOf (p : Params) (c : Ctx) : (State.resetOf p).actOf c = false := by
  simp [State.actOf, State.resetOf]

theorem resetOf_eager {p : Params} (h : p.tableInit = .eager) :
    (State.resetOf p).tv = true ∧ (State.resetOf p).table = Memory.full := by
  simp [State.resetOf, h]

theorem resetOf_lazy {p : Params} (h : p.tableInit = .lazy) :
    (State.resetOf p).tv = false ∧ (State.resetOf p).table = [] := by
  simp [State.resetOf, h]

theorem resetOf_inv (p : Params) : (State.resetOf p).Inv where
  table_canonical := by
    cases h : p.tableInit
    · rw [(resetOf_eager h).2]; exact full_wf
    · rw [(resetOf_lazy h).2]; exact empty_wf
  table_valid htv := by
    cases h : p.tableInit
    · rw [(resetOf_eager h).2]; exact read_full
    · rw [(resetOf_lazy h).1] at htv; cases htv
  table_absent htv := by
    cases h : p.tableInit
    · rw [(resetOf_eager h).1] at htv; cases htv
    · rw [(resetOf_lazy h).2]; exact read_empty
  eager_valid h := (resetOf_eager h).1
  act_iff_acc c _ := by simp
  no_such_ctx c _ := ⟨resetOf_accAt p c, resetOf_actOf p c⟩
  err_iff_cause := ⟨fun _ => rfl, fun _ => rfl⟩
  no_err_no_cmd _ := rfl
  cause_range := nofun
  rv_iff_out := ⟨fun _ => rfl, fun _ => rfl⟩
  no_event_no_result _ := ⟨rfl, rfl⟩
  last_event := nofun
  count_is_pc _ := rfl
  event_ctx := nofun
  pc_in_prog := Nat.le_refl 0

theorem resetOf_faultRecorded (p : Params) : (State.resetOf p).FaultRecorded := nofun

theorem resetOf_history (p : Params) : (State.resetOf p).History :=
  ⟨0, Nat.le_refl 0, Nat.le_refl 0, fun _ => rfl, nofun, rfl, rfl, fun c _ => resetOf_accAt p c⟩

/-! ## What an action keeps, one part of the state at a time -/

theorem action_keeps_canonical (i : Instr) {s : State} (h : s.table.wf = true) : (actionOf i s).table.wf = true := by
  rw [(action_table i s).1]
  split
  · rw [ensureTable_table]
    split
    · exact h
    · exact construct_wf _ h
  · exact h

/-- On the context that a command names, its action leaves the flag set just where it leaves a value. -/
theorem action_act_eq_isSome {i : Instr} {s : State} {c : Ctx} (hi : ctxOperand i = some c)
    (hopen : needsOpen i = true → s.actOf c = true) :
    (actionOf i s).actOf c = ((actionOf i s).accAt c).isSome := by
  cases i <;> cases hi
  case fold.refl b => simpa [actionOf, State.foldByte] using hopen rfl
  all_goals simp [actionOf, State.openCtx, State.closeCtx, State.foldClose, State.openFold, State.openFoldClose]

/-- A command that passes its checks keeps "the flag is set just where there is a value", on every context that exists
(10_state.md R44 item 3). -/
theorem action_keeps_act_iff_acc {i : Instr} {s : State} (hc : checkOf i s = none)
    (h : ∀ c : Ctx, s.params.hasCtx c = true → (s.actOf c = true ↔ (s.accAt c).isSome = true)) (c : Ctx)
    (hp : s.params.hasCtx c = true) :
    (actionOf i s).actOf c = true ↔ ((actionOf i s).accAt c).isSome = true := by
  by_cases hi : ctxOperand i = some c
  · rw [action_act_eq_isSome hi (ctx_of_checkOf_none hc hi).2]
  · rw [(action_ctx i s c hi).1, (action_ctx i s c hi).2]
    exact h c hp

/-- A command that passes its checks leaves the contexts that do not exist. -/
theorem action_leaves_no_such_ctx {i : Instr} {s : State} {c : Ctx} (hc : checkOf i s = none)
    (hp : s.params.hasCtx c = false) :
    (actionOf i s).accAt c = s.accAt c ∧ (actionOf i s).actOf c = s.actOf c :=
  action_ctx i s c fun hi => by simp [(ctx_of_checkOf_none hc hi).1] at hp

/-- The part of the invariants that speaks of the events and of what shows the last one (10_state.md R44 items 6
and 8). -/
structure State.EventInv (s : State) : Prop where
  rv_iff_out : s.rv = false ↔ s.out = []
  no_event_no_result : s.rv = false → s.result = none ∧ s.rsrc = none
  last_event : s.rv = true →
    ∃ e, s.out.getLast? = some e ∧ s.result = some e.value ∧ s.rsrc = some (rsrcOf e.kind e.id)
  event_ctx : ∀ e ∈ s.out, e.kind = .crc → e.id.toNat < s.params.nctx

theorem State.Inv.eventInv {s : State} (h : s.Inv) : s.EventInv :=
  ⟨h.rv_iff_out, h.no_event_no_result, h.last_event, h.event_ctx⟩

/-- A checksum event names a context that exists, its command having passed the checks. -/
theorem event_ctx_exists {i : Instr} {s : State} {e : OutEvent} (hc : checkOf i s = none)
    (hp : producesEvent i = true) (hcrc : ∀ c, ctxOperand i = some c → e.kind = .crc ∧ e.id = c.setWidth 8)
    (htab : ∀ j, i = .trd j → e.kind = .tab ∧ e.id = j) (hk : e.kind = .crc) : e.id.toNat < s.params.nctx := by
  have hctx : ∀ c, ctxOperand i = some c → e.id.toNat < s.params.nctx := fun c hi => by
    rw [(hcrc c hi).2, BitVec.toNat_setWidth_of_le (by decide)]
    exact of_decide_eq_true (ctx_of_checkOf_none hc hi).1
  cases i with
  | final c => exact hctx c rfl
  | foldl c b => exact hctx c rfl
  | foldfl c b => exact hctx c rfl
  | trd j => rw [(htab j rfl).1] at hk; cases hk
  | nop | build | init | fold | foldf => cases hp

theorem action_keeps_eventInv {i : Instr} {s : State} (hc : checkOf i s = none) (h : s.EventInv) :
    (actionOf i s).EventInv := by
  obtain ⟨-, hout, hres, hsrc, hrv⟩ | ⟨hp, e, hout, hres, hsrc, hrv, hcrc, htab⟩ := action_out i s
  · exact
      { rv_iff_out := by rw [hrv, hout]; exact h.rv_iff_out
        no_event_no_result := by rw [hrv, hres, hsrc]; exact h.no_event_no_result
        last_event := by rw [hrv, hout, hres, hsrc]; exact h.last_event
        event_ctx := by rw [hout, actionOf_params]; exact h.event_ctx }
  · exact
      { rv_iff_out := by simp [hrv, hout]
        no_event_no_result := by simp [hrv]
        last_event := fun _ => ⟨e, by simp [hout], hres, hsrc⟩
        event_ctx := by
          rw [hout, actionOf_params]
          intro e' he'
          obtain he' | he' := List.mem_append.1 he'
          · exact h.event_ctx e' he'
          · rw [List.mem_singleton.1 he']
            exact event_ctx_exists hc hp hcrc htab }

/-! ## The four ways to go on -/

/-- A command that completes keeps the invariants. -/
theorem complete_keeps_inv {s : State} {w : CmdWord} {i : Instr} (h : s.Inv) (hw : s.nextWord = some w)
    (he : s.err = false) (hc : checkOf i s = none) : (actionOf i s.advancePc).countDone.Inv :=
  have hevent := action_keeps_eventInv (s := s.advancePc) hc { h.eventInv with }
  { hevent with
    table_canonical := action_keeps_canonical i h.table_canonical
    table_valid := action_keeps_tableSound i (s := s.advancePc) h.tableSound
    table_absent := fun htv => by
      obtain ⟨-, htv', htable⟩ := actionOf_of_not_tv htv
      rw [countDone_table, htable]
      exact h.table_absent htv'
    eager_valid := fun hp => (actionOf_of_tv i (s := s.advancePc) (h.eager_valid (by simpa using hp))).1
    act_iff_acc := fun c hp => action_keeps_act_iff_acc (s := s.advancePc) hc h.act_iff_acc c (by simpa using hp)
    no_such_ctx := fun c hp => by
      have hp' : s.params.hasCtx c = false := by simpa using hp
      obtain ⟨hacc, hact⟩ := action_leaves_no_such_ctx (s := s.advancePc) hc hp'
      simpa [hacc, hact] using h.no_such_ctx c hp'
    err_iff_cause := by simpa using h.err_iff_cause
    no_err_no_cmd := by simpa using h.no_err_no_cmd
    cause_range := by simpa using h.cause_range
    count_is_pc := fun _ => by simp [h.count_is_pc he, BitVec.ofNat_add]
    pc_in_prog := by simpa using pc_lt_of_nextWord hw }

/-- Discarding a word keeps the invariants: only `pc` moves, and the count no longer follows it. -/
theorem discard_keeps_inv {s : State} {w : CmdWord} (h : s.Inv) (hw : s.nextWord = some w) (he : s.err = true) :
    s.advancePc.Inv :=
  { h with
    count_is_pc := by simp [he]
    pc_in_prog := pc_lt_of_nextWord hw }

/-- Trap entry keeps the invariants. -/
theorem fault_keeps_inv {s : State} {w : CmdWord} (cause : Cause) (h : s.Inv) (hw : s.nextWord = some w) :
    (s.advancePc.trap cause w).Inv :=
  { h with
    err_iff_cause := by simp [cause_code_ne_zero]
    no_err_no_cmd := nofun
    cause_range := fun _ => cause_code_range cause
    count_is_pc := nofun
    pc_in_prog := pc_lt_of_nextWord hw }

theorem step_keeps_inv {s t : State} (h : s.Inv) (hx : step s = .next t) : t.Inv := by
  cases stepsTo_of_step hx with
  | idle => exact h
  | discard w hw he => exact discard_keeps_inv h hw he
  | fault w cause hw => exact fault_keeps_inv cause h hw
  | complete w i hw _ he hc => exact complete_keeps_inv h hw he hc

/-! ## What the host does -/

/-- Of what the host offers, at most one word joins the accepted sequence (42_combined_and_streaming.md R139). -/
theorem acceptOffer_cases (s : State) (o : Offer) :
    (s.acceptOffer o).1 = s ∨ ∃ w, (s.acceptOffer o).1 = s.acceptWord w := by
  obtain ⟨cmd, beat⟩ := o
  cases cmd with
  | some w => exact .inr ⟨w, rfl⟩
  | none =>
    cases beat with
    | none => exact .inl rfl
    | some b =>
      cases hs : s.params.hasStream
      · simp [State.acceptOffer, State.acceptBeat, hs]
      · exact .inr ⟨b.word, by simp [State.acceptOffer, State.acceptBeat, hs]⟩

theorem acceptWord_keeps_inv {s : State} (w : CmdWord) (h : s.Inv) : (s.acceptWord w).Inv :=
  { h with pc_in_prog := h.pc_in_prog.trans (by simp [State.acceptWord]) }

theorem acceptOffer_keeps_inv {s : State} (o : Offer) (h : s.Inv) : (s.acceptOffer o).1.Inv := by
  obtain e | ⟨w, e⟩ := acceptOffer_cases s o <;> rw [e]
  · exact h
  · exact acceptWord_keeps_inv w h

/-- Settles O52: a step idles, discards, faults or completes, and each keeps the invariants; an accepted word changes
only the sequence; reset meets them. -/
theorem stepKeepsTheInvariants : Obligations.StepKeepsTheInvariants :=
  ⟨fun _ _ => step_keeps_inv, fun _ o => acceptOffer_keeps_inv o, fun s _ => resetOf_inv s.params⟩

/-- Settles O51: nothing has been accepted, so the history is that of no word. -/
theorem resetMeetsTheInvariants : Obligations.ResetMeetsTheInvariants := fun p =>
  ⟨resetOf_inv p, resetOf_faultRecorded p, resetOf_history p⟩

end Sys2Proof.Machine
end

section
/-! PROOFS. The history of 10_state.md R44 item 4: accumulators, events and count are the spec's function of the
completed words; and no command reads an absent value (R21). -/

namespace Sys2Proof.Machine

/-! ## The spec's functions, one word at a time -/

/-- Folding one more byte (41_checksum_fold.md R116). -/
theorem foldseq_snoc (a : Word32) (d : List Byte) (b : Byte) : foldseq a (d ++ [b]) = fold entry (foldseq a d) b := by
  induction d generalizing a with
  | nil => rfl
  | cons x d ih => exact ih (fold entry a x)

theorem openMessage_snoc (c : Ctx) (ws : List CmdWord) (w : CmdWord) :
    openMessage c (ws ++ [w]) = messageAfter c (openMessage c ws) w := by
  simp [openMessage]

theorem eventsFrom_snoc (done ws : List CmdWord) (w : CmdWord) :
    eventsFrom done (ws ++ [w]) = eventsFrom done ws ++ (eventOf (done ++ ws) w).toList := by
  induction ws generalizing done with
  | nil => simp [eventsFrom]
  | cons x ws ih => simp [eventsFrom, ih]

/-- A command leaves the message of a context it does not name (10_state.md R24). -/
theorem messageAfter_other {c : Ctx} {w : CmdWord} {i : Instr} (hd : decode w = .command i)
    (hi : ctxOperand i ≠ some c) (m : Option (List Byte)) : messageAfter c m w = m := by
  cases i <;> simp only [messageAfter, hd, ctxOperand, ne_eq, Option.some.injEq] at hi ⊢ <;> rw [if_neg hi]

/-! ## A command that completes -/

/-- The accumulators hold the folds of the messages left open by the words `done` (10_state.md R44 item 4). -/
def State.AccFolds (s : State) (done : List CmdWord) : Prop :=
  ∀ c : Ctx, s.params.hasCtx c = true → s.accAt c = (openMessage c done).map (foldseq Config.crcInit)

/-- An open context holds the fold of a message (10_state.md R21, R44 item 3). -/
theorem open_accAt {s : State} (h : s.Inv) {c : Ctx} (hp : s.params.hasCtx c = true) (ha : s.actOf c = true) :
    ∃ v, s.accAt c = some v :=
  Option.isSome_iff_exists.1 ((h.act_iff_acc c hp).1 ha)

theorem accOf_of_accAt {s : State} {c : Ctx} {v : Word32} (h : s.accAt c = some v) : s.accOf c = v := by
  simp [State.accOf, h]

/-- What a command that needs an open context finds there. -/
def FindsMessage (s : State) (done : List CmdWord) (i : Instr) (c : Ctx) : Prop :=
  needsOpen i = true → ∃ d, openMessage c done = some d ∧ s.accOf c = foldseq Config.crcInit d

theorem findsMessage_of_checkOf_none {s : State} {done : List CmdWord} {i : Instr} {c : Ctx}
    (h : s.Inv) (hacc : s.AccFolds done) (hc : checkOf i s = none) (hi : ctxOperand i = some c) : FindsMessage s done i c := by
  intro hn
  obtain ⟨hp, ha⟩ := ctx_of_checkOf_none hc hi
  obtain ⟨v, hv⟩ := open_accAt h hp (ha hn)
  obtain ⟨d, hd, rfl⟩ := Option.map_eq_some_iff.1 ((hacc c hp).symm.trans hv)
  exact ⟨d, hd, accOf_of_accAt hv⟩

@[simp] theorem ensureTable_accOf (s : State) (c : Ctx) : s.ensureTable.accOf c = s.accOf c := by
  simp only [State.accOf, ensureTable_accAt]

/-- On the context it names, a command leaves the fold of the message the spec says. -/
theorem action_accAt_named {s : State} {done : List CmdWord} {w : CmdWord} {i : Instr} {c : Ctx}
    (ht : s.TableSound) (hd : decode w = .command i) (hi : ctxOperand i = some c) (hm : FindsMessage s done i c) :
    (actionOf i s).accAt c = (messageAfter c (openMessage c done) w).map (foldseq Config.crcInit) := by
  simp only [messageAfter, hd]
  cases i <;> cases hi
  case init.refl => simp [actionOf, State.openCtx, foldseq]
  case fold.refl b =>
    obtain ⟨d, hopen, hacc⟩ := hm rfl
    simp [actionOf, State.foldByte, hopen, hacc, foldseq_snoc, ensureTable_tabRead ht]
  case foldf.refl b => simp [actionOf, State.openFold, foldseq, ensureTable_tabRead ht]
  all_goals simp [actionOf, State.closeCtx, State.foldClose, State.openFoldClose]

/-- A command emits the event the spec says (10_state.md R33). -/
theorem action_out_eventOf {s : State} {done : List CmdWord} {w : CmdWord} {i : Instr} (ht : s.TableSound)
    (hd : decode w = .command i) (hm : ∀ c, ctxOperand i = some c → FindsMessage s done i c) :
    (actionOf i s).out = s.out ++ (eventOf done w).toList := by
  simp only [eventOf, hd]
  cases i with
  | final c =>
    obtain ⟨d, hopen, hacc⟩ := hm c rfl rfl
    simp [actionOf, State.closeCtx, hopen, hacc, crc32]
  | foldl c b =>
    obtain ⟨d, hopen, hacc⟩ := hm c rfl rfl
    simp [actionOf, State.foldClose, State.closeCtx, hopen, hacc, crc32, foldseq_snoc, ensureTable_tabRead ht]
  | foldfl c b => simp [actionOf, State.openFoldClose, State.closeCtx, crc32, foldseq, ensureTable_tabRead ht]
  | trd j => simp [actionOf, State.deliverEntry, ensureTable_tabRead ht]
  | nop | build | init | fold | foldf => simp [actionOf, State.openCtx, State.foldByte, State.openFold]

/-- A command that completes keeps the accumulators the folds of the open messages. -/
theorem complete_keeps_accFolds {s : State} {done : List CmdWord} {w : CmdWord} {i : Instr} (h : s.Inv)
    (hacc : s.AccFolds done) (hd : decode w = .command i) (hc : checkOf i s = none) :
    (actionOf i s.advancePc).countDone.AccFolds (done ++ [w]) := by
  intro c hp
  replace hp : s.params.hasCtx c = true := by simpa using hp
  rw [openMessage_snoc, countDone_accAt]
  by_cases hi : ctxOperand i = some c
  · exact action_accAt_named (s := s.advancePc) h.tableSound hd hi (findsMessage_of_checkOf_none (s := s) h hacc hc hi)
  · rw [messageAfter_other hd hi, (action_ctx i s.advancePc c hi).1]
    exact hacc c hp

/-! ## The step -/

/-- With one more word taken from the sequence, the words taken are those before and this one. -/
theorem take_succ_of_nextWord {s : State} {w : CmdWord} (h : s.nextWord = some w) :
    s.prog.take (s.pc + 1) = s.prog.take s.pc ++ [w] := by
  rw [List.take_add_one, show s.prog[s.pc]? = some w from h]
  rfl

theorem complete_keeps_history {s : State} {w : CmdWord} {i : Instr} (hinv : s.Inv) (h : s.History)
    (hw : s.nextWord = some w) (hd : decode w = .command i) (he : s.err = false) (hc : checkOf i s = none) :
    (actionOf i s.advancePc).countDone.History := by
  obtain ⟨n, -, -, hn, -, hcount, hout, hacc⟩ := h
  obtain rfl := hn he
  refine ⟨s.pc + 1, by simp, by simpa using pc_lt_of_nextWord hw, fun _ => by simp, fun he' => by simp [he] at he',
    by simp [hcount, BitVec.ofNat_add], ?_, ?_⟩
  · rw [countDone_prog, actionOf_prog, advancePc_prog, take_succ_of_nextWord hw, eventsFrom_snoc, List.nil_append,
      ← hout]
    exact action_out_eventOf (s := s.advancePc) hinv.tableSound hd fun c hi =>
      findsMessage_of_checkOf_none (s := s) hinv hacc hc hi
  · rw [countDone_prog, actionOf_prog, advancePc_prog, take_succ_of_nextWord hw]
    exact complete_keeps_accFolds hinv hacc hd hc

/-- A fault leaves the history of the words completed before, and records the next. -/
theorem fault_keeps_history {s : State} {w : CmdWord} (cause : Cause) (h : s.History) (hw : s.nextWord = some w)
    (he : s.err = false) : (s.advancePc.trap cause w).History := by
  obtain ⟨n, -, hlen, hn, -, hcount, hout, hacc⟩ := h
  obtain rfl := hn he
  exact ⟨s.pc, Nat.le_succ _, hlen, nofun, fun _ => hw, hcount, hout, hacc⟩

theorem discard_keeps_history {s : State} (h : s.History) (he : s.err = true) : s.advancePc.History := by
  obtain ⟨n, hpc, hlen, -, hcmd, hcount, hout, hacc⟩ := h
  exact ⟨n, Nat.le_succ_of_le hpc, hlen, by simp [he], hcmd, hcount, hout, hacc⟩

theorem step_keeps_history {s t : State} (hinv : s.Inv) (h : s.History) (hx : step s = .next t) : t.History := by
  cases stepsTo_of_step hx with
  | idle => exact h
  | discard w _ he => exact discard_keeps_history h he
  | fault w cause hw he => exact fault_keeps_history cause h hw he
  | complete w i hw hd he hc => exact complete_keeps_history hinv h hw hd he hc

/-- Settles O54: of the four ways to go on, only a command that completes adds a word to those counted. -/
theorem stepKeepsTheHistory : Obligations.StepKeepsTheHistory := fun _ _ => step_keeps_history

end Sys2Proof.Machine
end

section
/-! PROOFS. What a step does to the counters, the fault registers, the table, the flags and the events (10_state.md R27
to R31, R33), and that a command finds a value wherever it reads one (R21). -/

namespace Sys2Proof.Machine

/-! ## Counters -/

/-- A step advances `pc` just when a word stands next (10_state.md R28; notes/assumptions/2.md). -/
theorem step_pc {s t : State} (hx : step s = .next t) : t.pc = if s.nextWord.isSome then s.pc + 1 else s.pc := by
  cases stepsTo_of_step hx with
  | idle hw => simp [hw]
  | discard w hw => simp [hw]
  | fault w cause hw => simp [hw]
  | complete w i hw => simp [hw]

/-- Settles O4: `pc` moves in each way to go on but the idle one. -/
theorem everyAcceptedCommandAdvancesPc : Obligations.EveryAcceptedCommandAdvancesPc :=
  ⟨fun _ => rfl, fun _ _ => step_pc, fun _ => beq_iff_eq⟩

/-- A step that takes a word counts it just when it ends, as it began, with `ERR = 0` (10_state.md R29). -/
theorem step_cmdcnt {s t : State} {w : CmdWord} (hw : s.nextWord = some w) (hx : step s = .next t) :
    t.cmdcnt.toNat =
      if s.err = false ∧ t.err = false then (s.cmdcnt.toNat + 1) % 2 ^ 32 else s.cmdcnt.toNat := by
  cases stepsTo_of_step hx with
  | idle hw' => rw [hw] at hw'; cases hw'
  | discard _ _ he => simp [he]
  | fault _ cause => simp
  | complete _ i _ _ he => simp [he, BitVec.toNat_add]

/-- While `ERR = 1` and no word stands next, the faulting word lies before `pc`. -/
theorem index_lt_pc_of_idle {s : State} {n : Nat} {w : CmdWord} (hn : s.prog[n]? = some w)
    (hidle : s.nextWord = none) : n < s.pc :=
  (List.getElem?_eq_some_iff.1 hn).1.trans_le (le_pc_of_nextWord_none hidle)

/-- While `ERR = 1`, `CMDCNT` is the index of the faulting word, which has been taken. -/
theorem step_cmdcnt_of_err {s t : State} (h : s.History) (hx : step s = .next t) (he : t.err = true) :
    ∃ n, t.cmdcnt.toNat = n % 2 ^ 32 ∧ n < t.pc ∧ t.prog[n]? = some t.ecmd := by
  obtain ⟨n, hpc, -, hn, hcmd, hcount, -, -⟩ := h
  have hcount' : s.cmdcnt.toNat = n % 2 ^ 32 := by rw [hcount, BitVec.toNat_ofNat]
  cases stepsTo_of_step hx with
  | idle hw => exact ⟨n, hcount', index_lt_pc_of_idle (hcmd he) hw, hcmd he⟩
  | discard w _ he' => exact ⟨n, hcount', Nat.lt_succ_of_le hpc, hcmd he'⟩
  | fault w cause hw he' =>
    obtain rfl := hn he'
    exact ⟨s.pc, hcount', Nat.lt_succ_self _, hw⟩
  | complete w i _ _ he' => simp [he'] at he

/-- Settles O28: the count of one step, then the invariant and the history of the state it leads to. -/
theorem onlyCompletedCommandsAreCounted : Obligations.OnlyCompletedCommandsAreCounted :=
  ⟨fun _ => rfl, fun _ _ _ => step_cmdcnt,
    fun _ t hinv hx he => by rw [(step_keeps_inv hinv hx).count_is_pc he, BitVec.toNat_ofNat],
    fun _ _ _ => step_cmdcnt_of_err⟩

/-! ## The fault registers -/

theorem step_keeps_err {s t : State} (hx : step s = .next t) (he : s.err = true) : t.err = true := by
  cases stepsTo_of_step hx with
  | idle => exact he
  | discard => exact he
  | fault => rfl
  | complete w i _ _ he' => rw [he] at he'; cases he'

/-- A step that raises no fault writes none of the fault registers (10_state.md R31). -/
theorem step_keeps_fault_registers {s t : State} (hx : step s = .next t) (he : t.err = s.err) :
    t.ecause = s.ecause ∧ t.ecmd = s.ecmd := by
  cases stepsTo_of_step hx with
  | idle => exact ⟨rfl, rfl⟩
  | discard => exact ⟨rfl, rfl⟩
  | fault _ _ _ he' => rw [he'] at he; cases he
  | complete w i => simp

/-- A step that sets `ERR` records a cause and the word it took. -/
theorem step_sets_err {s t : State} (hx : step s = .next t) (he : s.err = false) (he' : t.err = true) :
    t.ecause ≠ 0#4 ∧ s.nextWord = some t.ecmd := by
  cases stepsTo_of_step hx with
  | idle => rw [he] at he'; cases he'
  | discard _ _ h => rw [he] at h; cases h
  | fault w cause hw => exact ⟨cause_code_ne_zero cause, hw⟩
  | complete w i => simp [he] at he'

/-- Settles O27: trap entry is the one way to go on that writes the three. -/
theorem faultRegistersChangeOnlyByTrap : Obligations.FaultRegistersChangeOnlyByTrap :=
  ⟨fun _ _ hx => ⟨step_keeps_err hx, step_keeps_fault_registers hx⟩, fun _ => ⟨rfl, rfl, rfl⟩⟩

/-! ## The table -/

/-- No step changes a valid table (10_state.md R27). -/
theorem step_of_tv {s t : State} (hx : step s = .next t) (h : s.tv = true) : t.tv = true ∧ t.table = s.table := by
  cases stepsTo_of_step hx with
  | idle => exact ⟨h, rfl⟩
  | discard => exact ⟨h, rfl⟩
  | fault => exact ⟨h, rfl⟩
  | complete w i => exact actionOf_of_tv i (s := s.advancePc) h

theorem run_of_tv (k : Nat) {s t : State} (h : s.tv = true) (hx : run k s = .next t) :
    t.tv = true ∧ t.table = s.table := by
  induction k generalizing s with
  | zero => cases hx; exact ⟨h, rfl⟩
  | succ k ih =>
    obtain ⟨u, hu⟩ := step_next s
    obtain ⟨htv, htable⟩ := step_of_tv hu h
    rw [run_succ k s u hu] at hx
    rw [← htable]
    exact ih htv hx

theorem acceptOffer_table (s : State) (o : Offer) :
    (s.acceptOffer o).1.tv = s.tv ∧ (s.acceptOffer o).1.table = s.table := by
  obtain e | ⟨w, e⟩ := acceptOffer_cases s o <;> rw [e] <;> exact ⟨rfl, rfl⟩

/-- Settles O32: by induction on the number of steps. -/
theorem validTableNeverChanges : Obligations.ValidTableNeverChanges :=
  ⟨fun k _ _ => run_of_tv k, acceptOffer_table⟩

/-- A step that sets `TV` ran a command that constructs an absent table (40_table_construction.md R95, R96). -/
theorem step_sets_tv {s t : State} (hx : step s = .next t) (h : s.tv = false) (h' : t.tv = true) :
    ∃ w i, s.nextWord = some w ∧ decode w = .command i ∧ wantsTable i = true := by
  cases stepsTo_of_step hx with
  | idle => rw [h] at h'; cases h'
  | discard => exact absurd (h.symm.trans h') nofun
  | fault => exact absurd (h.symm.trans h') nofun
  | complete w i hw hd =>
    refine ⟨w, i, hw, hd, ?_⟩
    rw [countDone_tv, (action_table i _).2] at h'
    by_contra hwant
    rw [if_neg hwant, advancePc_tv, h] at h'
    cases h'

/-- A command that completes leaves every entry it could have read present and equal to `entry(i)`, and finds a value
in the accumulator of the open context it needs (10_state.md R21). -/
theorem exec_finds_values {s t : State} {i : Instr} (h : s.Inv) (he : s.err = false) (hx : exec i s = .next t)
    (he' : t.err = false) :
    (∀ c, needsOpen i = true → ctxOperand i = some c → (s.accAt c).isSome = true) ∧
    (wantsTable i = true → ∀ j : Byte, t.table.read j = some (entry j)) := by
  obtain ⟨hs, -⟩ | ⟨-, hc, rfl⟩ | ⟨-, cause, -, rfl⟩ := exec_cases i s t hx
  · rw [he] at hs; cases hs
  · constructor
    · intro c hn hi
      obtain ⟨hp, ha⟩ := ctx_of_checkOf_none hc hi
      exact (h.act_iff_acc c hp).1 (ha hn)
    · intro hwant
      refine exec_keeps_tableSound i h.tableSound hx ?_
      rw [countDone_tv, (action_table i _).2, if_pos hwant, ensureTable_tv]
  · cases he'

/-- Settles O55: the flag that the checks ask for stands where there is a value, and `ensure_table()` comes before the
reads. -/
theorem noAbsentValueIsRead : Obligations.NoAbsentValueIsRead := fun _ _ c _ hinv he hx he' =>
  have ⟨hacc, htable⟩ := exec_finds_values hinv he hx he'
  ⟨hacc c, htable⟩

/-! ## Events -/

/-- What a command that completes does to the events and to what shows the last one. -/
theorem exec_event {s t : State} {i : Instr} (hx : exec i s = .next t) (he : s.err = false) (he' : t.err = false)
    (hp : producesEvent i = true) :
    ∃ e : OutEvent, t.out = s.out ++ [e] ∧
      (∀ c, ctxOperand i = some c → e.kind = .crc ∧ e.id = c.setWidth 8) ∧
      (∀ j, i = .trd j → e.kind = .tab ∧ e.id = j) ∧
      t.result = some e.value ∧ t.rsrc = some (e.kind.bit ++ e.id) ∧ t.rv = true := by
  obtain ⟨hs, -⟩ | ⟨-, -, rfl⟩ | ⟨-, cause, -, rfl⟩ := exec_cases i s t hx
  · rw [he] at hs; cases hs
  · obtain ⟨hp', -⟩ | ⟨-, e, hout, hres, hsrc, hrv, hcrc, htab⟩ := action_out i s.advancePc
    · rw [hp] at hp'; cases hp'
    · exact ⟨e, hout, hcrc, htab, hres, hsrc, hrv⟩
  · cases he'

/-- A command that is discarded, faults or produces no event leaves the events and what shows the last one. -/
theorem exec_no_event {s t : State} {i : Instr} (hx : exec i s = .next t)
    (h : s.err = true ∨ t.err = true ∨ producesEvent i = false) :
    t.out = s.out ∧ t.result = s.result ∧ t.rsrc = s.rsrc ∧ t.rv = s.rv := by
  obtain ⟨-, rfl⟩ | ⟨he, -, rfl⟩ | ⟨-, cause, -, rfl⟩ := exec_cases i s t hx
  · exact ⟨rfl, rfl, rfl, rfl⟩
  · replace h : producesEvent i = false := by simpa [he] using h
    obtain ⟨-, hframe⟩ | ⟨hp, -⟩ := action_out i s.advancePc
    · exact hframe
    · rw [h] at hp; cases hp
  · exact ⟨rfl, rfl, rfl, rfl⟩

theorem producesEvent_iff (i : Instr) : producesEvent i = true ↔
    (∃ c, i = .final c) ∨ (∃ c b, i = .foldl c b) ∨ (∃ c b, i = .foldfl c b) ∨ ∃ j, i = .trd j := by
  cases i <;> simp [producesEvent]

/-- Settles O30, from what an action does to `OUT`. -/
theorem eventsComeFromFourCommands : Obligations.EventsComeFromFourCommands :=
  ⟨rfl, rfl, fun _ => rfl, producesEvent_iff, fun _ _ _ hx => ⟨exec_event hx, exec_no_event hx⟩⟩

/-- The events of a step: it leaves `OUT` and `RV`, or it appends one event and sets `RV`. -/
theorem step_out {s t : State} (hx : step s = .next t) :
    (t.out = s.out ∧ t.rv = s.rv) ∨ (∃ e, t.out = s.out ++ [e]) ∧ t.rv = true := by
  cases stepsTo_of_step hx with
  | idle => exact .inl ⟨rfl, rfl⟩
  | discard => exact .inl ⟨rfl, rfl⟩
  | fault => exact .inl ⟨rfl, rfl⟩
  | complete w i =>
    obtain ⟨-, hout, -, -, hrv⟩ | ⟨-, e, hout, -, -, hrv, -⟩ := action_out i s.advancePc
    · exact .inl ⟨hout, hrv⟩
    · exact .inr ⟨⟨e, hout⟩, hrv⟩

theorem step_keeps_rv {s t : State} (hx : step s = .next t) (h : s.rv = true) : t.rv = true := by
  obtain ⟨-, hrv⟩ | ⟨-, hrv⟩ := step_out hx
  · exact hrv.trans h
  · exact hrv

theorem step_sets_rv {s t : State} (hx : step s = .next t) (h : s.rv = false) (h' : t.rv = true) :
    ∃ e, t.out = s.out ++ [e] := by
  obtain ⟨-, hrv⟩ | ⟨he, -⟩ := step_out hx
  · rw [hrv, h] at h'; cases h'
  · exact he

/-! ## The active flags -/

/-- Only a command that names the context changes its flag (10_state.md R24). -/
theorem step_changes_act {s t : State} {c : Ctx} (hx : step s = .next t) (h : t.actOf c ≠ s.actOf c) :
    ∃ w i, s.nextWord = some w ∧ decode w = .command i ∧ ctxOperand i = some c ∧
      t.actOf c = (actionOf i s.advancePc).actOf c := by
  cases stepsTo_of_step hx with
  | idle => exact absurd rfl h
  | discard => exact absurd rfl h
  | fault => exact absurd rfl h
  | complete w i hw hd =>
    refine ⟨w, i, hw, hd, ?_, rfl⟩
    by_contra hi
    exact h (action_ctx i s.advancePc c hi).2

/-- Of the commands that name context `c`, `INIT` and `FOLDF` leave it open, `FOLD` leaves the flag, and `FINAL`,
`FOLDL`, `FOLDFL` leave it closed (10_state.md R30). -/
theorem action_actOf_named {i : Instr} {s : State} {c : Ctx} (hi : ctxOperand i = some c) :
    ((i = .init c ∨ ∃ b, i = .foldf c b) ∧ (actionOf i s).actOf c = true) ∨
    ((∃ b, i = .fold c b) ∧ (actionOf i s).actOf c = s.actOf c) ∨
    ((i = .final c ∨ ∃ b, i = .foldl c b ∨ i = .foldfl c b) ∧ (actionOf i s).actOf c = false) := by
  cases i <;> cases hi <;> simp [actionOf, State.openCtx, State.foldByte, State.closeCtx, State.foldClose,
    State.openFold, State.openFoldClose]

theorem step_sets_act {s t : State} {c : Ctx} (hx : step s = .next t) (h : s.actOf c = false) (h' : t.actOf c = true) :
    ∃ w, s.nextWord = some w ∧ (decode w = .command (.init c) ∨ ∃ b, decode w = .command (.foldf c b)) := by
  obtain ⟨w, i, hw, hd, hi, hact⟩ := step_changes_act (c := c) hx (by simp [h, h'])
  refine ⟨w, hw, ?_⟩
  rw [h'] at hact
  obtain ⟨rfl | ⟨b, rfl⟩, -⟩ | ⟨-, hsame⟩ | ⟨-, hclosed⟩ := action_actOf_named (s := s.advancePc) hi
  · exact .inl hd
  · exact .inr ⟨b, hd⟩
  · simp [← hact, h] at hsame
  · simp [← hact] at hclosed

theorem step_clears_act {s t : State} {c : Ctx} (hx : step s = .next t) (h : s.actOf c = true)
    (h' : t.actOf c = false) :
    ∃ w, s.nextWord = some w ∧ (decode w = .command (.final c) ∨
      ∃ b, decode w = .command (.foldl c b) ∨ decode w = .command (.foldfl c b)) := by
  obtain ⟨w, i, hw, hd, hi, hact⟩ := step_changes_act (c := c) hx (by simp [h, h'])
  refine ⟨w, hw, ?_⟩
  rw [h'] at hact
  obtain ⟨-, hopen⟩ | ⟨-, hsame⟩ | ⟨rfl | ⟨b, rfl | rfl⟩, -⟩ := action_actOf_named (s := s.advancePc) hi
  · simp [← hact] at hopen
  · simp [← hact, h] at hsame
  · exact .inl hd
  · exact .inr ⟨b, .inl hd⟩
  · exact .inr ⟨b, .inr hd⟩

/-- Settles O36, flag by flag. -/
theorem flagsAreSetAndClearedAsTabulated : Obligations.FlagsAreSetAndClearedAsTabulated := fun _ _ hx =>
  ⟨fun h => (step_of_tv hx h).1, step_keeps_err hx, step_keeps_rv hx, step_sets_tv hx, step_sets_rv hx,
    step_sets_err hx, fun _ => ⟨step_sets_act hx, step_clears_act hx⟩⟩

end Sys2Proof.Machine
end

section
/-! PROOFS. The status port and reset (10_state.md R36 to R40, R43): every field of a register is read through what one
placed field shows of a bit and of a range of bits. -/

namespace Sys2Proof.Machine

/-! ## Registers -/

section
variable (s : State) (draw : Word32)

@[simp] theorem statusRead_status : s.statusRead 0#3 draw = s.statusWord := rfl
@[simp] theorem statusRead_result : s.statusRead 1#3 draw = s.readResult draw := rfl
@[simp] theorem statusRead_rsrc : s.statusRead 2#3 draw = (s.readRsrc (draw.setWidth 9)).setWidth 32 := rfl
@[simp] theorem statusRead_ecmd : s.statusRead 3#3 draw = s.ecmd.setWidth 32 := rfl
@[simp] theorem statusRead_cmdcnt : s.statusRead 4#3 draw = s.cmdcnt := rfl
@[simp] theorem statusRead_config : s.statusRead 5#3 draw = configWord s.params := rfl

end

/-- Settles O38, register by register. -/
theorem statusRegisterMap : Obligations.StatusRegisterMap := fun s draw => by
  refine ⟨fun v hrv hv => ?_, fun hrv => ?_, fun v hrv hv => ?_, fun hrv => ?_, ?_, rfl, rfl, rfl⟩
  · simp [State.readResult, hrv, hv]
  · simp [State.readResult, hrv]
  · rw [statusRead_rsrc, BitVec.toNat_setWidth_of_le (by decide)]
    simp [State.readRsrc, hrv, hv]
  · rw [statusRead_rsrc, BitVec.toNat_setWidth_of_le (by decide)]
    simp [State.readRsrc, hrv]
  · rw [statusRead_ecmd, BitVec.toNat_setWidth_of_le (by decide)]

/-! ## Fields of a register -/

theorem fieldAt_getLsbD {n : Nat} (pos : Nat) (v : BitVec n) (k : Nat) :
    (fieldAt pos v).getLsbD k = (decide (k < 32) && decide (pos ≤ k) && v.getLsbD (k - pos)) := by
  by_cases hk : k < 32
  · by_cases hp : pos ≤ k
    · simp [fieldAt, hk, hp, Nat.not_lt.2 hp]
    · simp [fieldAt, hk, hp, Nat.lt_of_not_le hp]
  · simp [fieldAt, hk]

/-- A field shows 0 at every bit outside it. -/
theorem fieldAt_bit_apart {n pos k : Nat} (v : BitVec n) (h : k < pos ∨ pos + n ≤ k) :
    (fieldAt pos v).getLsbD k = false := by
  rw [fieldAt_getLsbD]
  obtain h | h := h
  · simp [Nat.not_le.2 h]
  · simp [BitVec.getLsbD_of_ge v (k - pos) (by omega)]

/-- A flag shows at its own bit. -/
theorem fieldAt_flag {pos : Nat} (b : Bool) (h : pos < 32) : (fieldAt pos (BitVec.ofBool b)).getLsbD pos = b := by
  rw [fieldAt_getLsbD, Nat.sub_self]
  simp [h]

/-- A field shows its value at its own position. -/
theorem fieldAt_extract_same {n pos : Nat} (v : BitVec n) (h : pos + n ≤ 32) :
    (fieldAt pos v).extractLsb' pos n = v := by
  apply BitVec.eq_of_getLsbD_eq
  intro k hk
  rw [BitVec.getLsbD_extractLsb', fieldAt_getLsbD]
  simp [hk, show pos + k < 32 by omega]

/-- A field shows 0 in every range of bits outside it. -/
theorem fieldAt_extract_apart {n pos a len : Nat} (v : BitVec n) (h : a + len ≤ pos ∨ pos + n ≤ a) :
    (fieldAt pos v).extractLsb' a len = 0#len := by
  apply BitVec.eq_of_getLsbD_eq
  intro k hk
  rw [BitVec.getLsbD_extractLsb', fieldAt_bit_apart v (by omega), Bool.and_false, BitVec.getLsbD_zero]

/-! ## STATUS -/

theorem actv_bit (s : State) (c : Ctx) :
    s.actv.getLsbD c.toNat = (decide (c.toNat < s.params.nctx) && s.actOf c) := by
  rw [State.actv, BitVec.getLsbD_ofFnLE, dif_pos c.isLt]
  rfl

theorem statusWord_act (s : State) (c : Ctx) :
    s.statusWord.getLsbD (16 + c.toNat) = (decide (c.toNat < s.params.nctx) && s.actOf c) := by
  have hc := c.isLt
  simp (disch := omega) only [State.statusWord, BitVec.getLsbD_or, fieldAt_bit_apart, Bool.false_or]
  rw [fieldAt_getLsbD, Nat.add_sub_cancel_left, actv_bit]
  simp [show 16 + c.toNat < 32 by omega]

theorem statusWord_ecause (s : State) : s.statusWord.extractLsb' 4 4 = s.ecause := by
  simp (disch := decide) [State.statusWord, BitVec.extractLsb'_or, fieldAt_extract_apart, fieldAt_extract_same]

theorem statusWord_reserved (s : State) : s.statusWord.extractLsb' 8 8 = 0#8 := by
  simp (disch := decide) [State.statusWord, BitVec.extractLsb'_or, fieldAt_extract_apart]

theorem statusWord_flags (s : State) :
    s.statusWord.getLsbD 0 = s.tv ∧ s.statusWord.getLsbD 1 = s.err ∧ s.statusWord.getLsbD 2 = s.rv ∧
    s.statusWord.getLsbD 3 = false := by
  simp (disch := decide) only [State.statusWord, BitVec.getLsbD_or, fieldAt_bit_apart, fieldAt_flag, Bool.or_false,
    Bool.false_or, and_self]

/-- Settles O37: `STATUS` is the union of five fields that lie apart. -/
theorem statusRegisterFields : Obligations.StatusRegisterFields := fun s _ =>
  have ⟨htv, herr, hrv, hzero⟩ := statusWord_flags s
  ⟨htv, herr, hrv, hzero, statusWord_ecause s, statusWord_reserved s, statusWord_act s, herr.symm,
    fun hinv he => (statusWord_ecause s).trans (hinv.err_iff_cause.1 he)⟩

/-! ## CONFIG -/

theorem configWord_fields (p : Params) :
    (configWord p).extractLsb' 0 4 = p.nctxM1 ∧ (configWord p).extractLsb' 6 2 = 0#2 ∧
    (configWord p).extractLsb' 8 8 = p.pipe ∧ (configWord p).extractLsb' 16 8 = 0#8 ∧
    (configWord p).extractLsb' 24 8 = Config.version := by
  simp (disch := decide) [configWord, BitVec.extractLsb'_or, fieldAt_extract_apart, fieldAt_extract_same]

theorem configWord_bits (p : Params) :
    (configWord p).getLsbD 4 = decide (p.tableInit = .lazy) ∧ (configWord p).getLsbD 5 = p.hasStream := by
  have hlazy : lazyBit p.tableInit = decide (p.tableInit = .lazy) := by cases p.tableInit <;> rfl
  simp (disch := decide) only [configWord, BitVec.getLsbD_or, fieldAt_bit_apart, fieldAt_flag, Bool.or_false,
    Bool.false_or, hlazy, and_self]

/-- No step writes the parameters (10_state.md R40). -/
theorem step_params {s t : State} (hx : step s = .next t) : t.params = s.params := by
  cases stepsTo_of_step hx with
  | idle => rfl
  | discard => rfl
  | fault => rfl
  | complete w i => simp

/-- Settles O39: `CONFIG` is the union of five fields that lie apart, of parameters that no step writes. -/
theorem configRegisterFields : Obligations.ConfigRegisterFields := fun s draw =>
  have ⟨hnctx, hzero, hpipe, hzero', hver⟩ := configWord_fields s.params
  have ⟨hlazy, hstream⟩ := configWord_bits s.params
  ⟨by rw [statusRead_config, hnctx, Params.nctx, Nat.add_sub_cancel], hlazy, hstream, hzero, hpipe, hzero', hver,
    fun t hx => by rw [statusRead_config, statusRead_config, step_params hx]⟩

/-! ## Reset -/

/-- Settles O34: the state reset leaves, field by field; the table is the full one or the empty one. -/
theorem resetLeavesTheStatedValues : Obligations.ResetLeavesTheStatedValues := fun s => by
  refine ⟨rfl, rfl, rfl, fun h => ?_, fun h => ?_, fun c => ⟨resetOf_accAt _ c, resetOf_actOf _ c⟩, rfl, rfl, rfl,
    rfl, rfl, rfl, rfl, rfl, fun _ => rfl⟩
  · rw [State.assertReset, (resetOf_eager h).2]
    exact ⟨(resetOf_eager h).1, read_full⟩
  · rw [State.assertReset, (resetOf_lazy h).2]
    exact ⟨(resetOf_lazy h).1, read_empty⟩

end Sys2Proof.Machine
end

section
/-! PROOFS. A command neither reads nor writes the context it does not name (10_state.md R24): its checks and its action
commute with any write of that context. -/

namespace Sys2Proof.Machine

/-- `ACC[d] <- v` and `ACT[d] <- a`. -/
def State.writeCtx (s : State) (d : Ctx) (v : Option Word32) (a : Bool) : State := (s.writeAcc d v).writeAct d a

section
variable (s : State) (d : Ctx) (v : Option Word32) (a : Bool)

theorem writeCtx_tabRead : (s.writeCtx d v a).tabRead = s.tabRead := rfl

theorem writeCtx_emit (k : EventKind) (id : BitVec 8) (x : Word32) :
    (s.writeCtx d v a).emit k id x = (s.emit k id x).writeCtx d v a := rfl

theorem writeCtx_ensureTable : (s.writeCtx d v a).ensureTable = s.ensureTable.writeCtx d v a := by
  cases h : s.tv
  · rw [ensureTable_of_not_tv s h, ensureTable_of_not_tv (s.writeCtx d v a) h]
    rfl
  · rw [ensureTable_of_tv s h, ensureTable_of_tv (s.writeCtx d v a) h]

variable {d} {c : Ctx} (hne : c ≠ d)
include hne

theorem writeCtx_accOf : (s.writeCtx d v a).accOf c = s.accOf c := by
  rw [State.accOf, State.accOf, State.writeCtx, writeAct_accAt, writeAcc_accAt_other s d c v hne]

theorem writeCtx_actOf : (s.writeCtx d v a).actOf c = s.actOf c := by
  rw [State.writeCtx, writeAct_actOf_other _ d c a hne, writeAcc_actOf]

theorem writeCtx_writeAcc (x : Option Word32) :
    (s.writeCtx d v a).writeAcc c x = (s.writeAcc c x).writeCtx d v a := by
  simp only [State.writeCtx, State.writeAcc, State.writeAct]
  rw [Vector.set_comm _ _ (ctx_toNat_ne d c hne)]

theorem writeCtx_writeAct (x : Bool) : (s.writeCtx d v a).writeAct c x = (s.writeAct c x).writeCtx d v a := by
  simp only [State.writeCtx, State.writeAcc, State.writeAct]
  rw [Vector.set_comm _ _ (ctx_toNat_ne d c hne)]

theorem writeCtx_closeCtx (x : Word32) : (s.writeCtx d v a).closeCtx c x = (s.closeCtx c x).writeCtx d v a := by
  simp only [State.closeCtx, writeCtx_emit, writeCtx_writeAcc _ v a hne, writeCtx_writeAct _ v a hne]

end

theorem writeCtx_checkOf {i : Instr} {d : Ctx} (h : ctxOperand i ≠ some d) (s : State) (v : Option Word32) (a : Bool) :
    checkOf i (s.writeCtx d v a) = checkOf i s := by
  cases hi : ctxOperand i with
  | none => simp only [checkOf, hi]
  | some c =>
    have hne : c ≠ d := fun e => h (by rw [hi, e])
    simp only [checkOf, hi, writeCtx_actOf s v a hne]
    rfl

theorem writeCtx_actionOf {i : Instr} {d : Ctx} (h : ctxOperand i ≠ some d) (s : State) (v : Option Word32)
    (a : Bool) : actionOf i (s.writeCtx d v a) = (actionOf i s).writeCtx d v a := by
  have hne : ∀ c, ctxOperand i = some c → c ≠ d := fun c hc e => h (by rw [hc, e])
  cases i with
  | nop => rfl
  | build => exact writeCtx_ensureTable s d v a
  | init c =>
    simp only [actionOf, State.openCtx, writeCtx_writeAcc _ v a (hne c rfl), writeCtx_writeAct _ v a (hne c rfl)]
  | final c => simp only [actionOf, writeCtx_accOf _ v a (hne c rfl), writeCtx_closeCtx _ v a (hne c rfl)]
  | fold c b =>
    simp only [actionOf, State.foldByte, writeCtx_ensureTable, writeCtx_tabRead, writeCtx_accOf _ v a (hne c rfl),
      writeCtx_writeAcc _ v a (hne c rfl)]
  | foldl c b =>
    simp only [actionOf, State.foldClose, writeCtx_ensureTable, writeCtx_tabRead, writeCtx_accOf _ v a (hne c rfl),
      writeCtx_closeCtx _ v a (hne c rfl)]
  | foldf c b =>
    simp only [actionOf, State.openFold, writeCtx_ensureTable, writeCtx_tabRead, writeCtx_writeAcc _ v a (hne c rfl),
      writeCtx_writeAct _ v a (hne c rfl)]
  | foldfl c b =>
    simp only [actionOf, State.openFoldClose, writeCtx_ensureTable, writeCtx_tabRead,
      writeCtx_closeCtx _ v a (hne c rfl)]
  | trd j => simp only [actionOf, State.deliverEntry, writeCtx_ensureTable, writeCtx_tabRead, writeCtx_emit]

/-- A command leaves the context it does not name. -/
theorem exec_other_ctx {s t : State} {i : Instr} {d : Ctx} (h : ctxOperand i ≠ some d) (hx : exec i s = .next t) :
    t.accAt d = s.accAt d ∧ t.actOf d = s.actOf d := by
  obtain ⟨-, rfl⟩ | ⟨-, -, rfl⟩ | ⟨-, cause, -, rfl⟩ := exec_cases i s t hx
  · exact ⟨rfl, rfl⟩
  · exact action_ctx i s.advancePc d h
  · exact ⟨rfl, rfl⟩

/-- A command does the same whatever the context it does not name holds. -/
theorem exec_writeCtx {s t : State} {i : Instr} {d : Ctx} (h : ctxOperand i ≠ some d) (hx : exec i s = .next t)
    (v : Option Word32) (a : Bool) : exec i (s.writeCtx d v a) = .next (t.writeCtx d v a) := by
  obtain ⟨he, rfl⟩ | ⟨he, hc, rfl⟩ | ⟨he, cause, hc, rfl⟩ := exec_cases i s t hx
  · rw [exec_eq_runCommand, runCommand_err _ _ (s.writeCtx d v a) he]
    rfl
  · rw [exec_completes i (s.writeCtx d v a) he ((writeCtx_checkOf h s v a).trans hc)]
    exact congrArg (Host.Outcome.next ·.countDone) (writeCtx_actionOf h s.advancePc v a)
  · rw [exec_faults i (s.writeCtx d v a) cause he ((writeCtx_checkOf h s v a).trans hc)]
    rfl

theorem ctx_lt_one_iff (d : Ctx) : d.toNat < 1 ↔ d = 0#4 := by
  rw [Nat.lt_one_iff, ← BitVec.toNat_inj]
  rfl

/-- Settles O29: the frame of a command, and its commuting with a write of the other context. -/
theorem commandsIgnoreOtherContexts : Obligations.CommandsIgnoreOtherContexts := fun _ _ _ d v a h hx =>
  have ⟨hacc, hact⟩ := exec_other_ctx h hx
  ⟨hacc, hact, exec_writeCtx h hx v a, fun hn => by rw [hn]; exact ctx_lt_one_iff d⟩

end Sys2Proof.Machine
end

section
/-! PROOFS. 20_memory.md R59: the checksum events of a context are a function of its accumulator and of its own
commands, so two runs with the same commands of that context deliver the same checksums. -/

namespace Sys2Proof.Machine

/-! ## Runs without a fault -/

theorem run_keeps_err (k : Nat) {s t : State} (hx : run k s = .next t) (he : s.err = true) : t.err = true := by
  induction k generalizing s with
  | zero => cases hx; exact he
  | succ k ih =>
    obtain ⟨u, hu⟩ := step_next s
    rw [run_succ k s u hu] at hx
    exact ih hx (step_keeps_err hu he)

/-- The word that stands next, and those after it, where the words not yet taken are known. -/
theorem nextWord_of_drop {s : State} {w : CmdWord} {ws : List CmdWord} (h : s.prog.drop s.pc = w :: ws) :
    s.nextWord = some w ∧ s.prog.drop (s.pc + 1) = ws := by
  constructor
  · rw [State.nextWord, ← List.head?_drop, h, List.head?_cons]
  · rw [← List.tail_drop, h, List.tail_cons]

/-- A run that ends with `ERR = 0` begins by completing the command that stands next. -/
theorem faultless_run_cons {s t : State} {w : CmdWord} {ws : List CmdWord} (hws : s.prog.drop s.pc = w :: ws)
    (hx : run (w :: ws).length s = .next t) (he : t.err = false) :
    ∃ i, decode w = .command i ∧ checkOf i s = none ∧
      (actionOf i s.advancePc).countDone.prog.drop (actionOf i s.advancePc).countDone.pc = ws ∧
      run ws.length (actionOf i s.advancePc).countDone = .next t := by
  obtain ⟨hw, hrest⟩ := nextWord_of_drop hws
  obtain ⟨u, hu⟩ := step_next s
  rw [List.length_cons, run_succ _ s u hu] at hx
  have hue : u.err ≠ true := fun h => by simp [run_keeps_err _ hx h] at he
  cases stepsTo_of_step hu with
  | idle hw' => rw [hw] at hw'; cases hw'
  | discard _ _ hse => exact absurd hse hue
  | fault => exact absurd rfl hue
  | complete w' i hw' hd _ hc =>
    obtain rfl : w = w' := Option.some.inj (hw.symm.trans hw')
    exact ⟨i, hd, hc, by simpa using hrest, hx⟩

/-! ## The events of one command -/

theorem crcId_beq (c d : Ctx) : (crcId d == crcId c) = (d == c) := by
  have hinj : crcId d = crcId c ↔ d = c := ⟨fun h => by simpa [crcId] using congrArg (·.setWidth 4) h, congrArg crcId⟩
  rw [Bool.eq_iff_iff, beq_iff_eq, beq_iff_eq, hinj]

/-- An action appends checksum events of the context its command names, and of no other (10_state.md R33). -/
theorem action_appends (i : Instr) (s : State) (c : Ctx) :
    ∃ new, (actionOf i s).out = s.out ++ new ∧ ∀ e ∈ new, isCrcOf c e = (ctxOperand i == some c) := by
  obtain ⟨-, hout, -⟩ | ⟨hp, e, hout, -, -, -, hcrc, htab⟩ := action_out i s
  · exact ⟨[], by simpa using hout, nofun⟩
  · refine ⟨[e], hout, fun e' he' => ?_⟩
    rw [List.mem_singleton.1 he', isCrcOf]
    cases hi : ctxOperand i with
    | some d =>
      obtain ⟨hk, hid⟩ := hcrc d hi
      rw [hk, hid]
      exact crcId_beq c d
    | none =>
      obtain ⟨d, rfl⟩ | ⟨d, b, rfl⟩ | ⟨d, b, rfl⟩ | ⟨j, rfl⟩ := (producesEvent_iff i).1 hp
      case inr.inr.inr => rw [(htab j rfl).1]; rfl
      all_goals cases hi

/-! ## A context alone -/

/-- An engine in which nothing has happened but that context `c` holds `a`. Its actions say what the commands of `c` do
without those of the other contexts. -/
def alone (c : Ctx) (a : Option Word32) : State := State.reset.writeAcc c a

theorem alone_tableSound (c : Ctx) (a : Option Word32) : (alone c a).TableSound :=
  (resetOf_inv Params.standard).tableSound

theorem alone_accAt (c : Ctx) (a : Option Word32) : (alone c a).accAt c = a := writeAcc_accAt_same _ c a

theorem alone_out (c : Ctx) (a : Option Word32) : (alone c a).out = [] := rfl

/-- Of all an engine holds, a command reads only the accumulator of the context it names (10_state.md R24): it leaves
there, and delivers, what it does with that context alone. -/
theorem action_alone {i : Instr} {s : State} {c : Ctx} (ht : s.TableSound) (hi : ctxOperand i = some c) :
    (actionOf i s).accAt c = (actionOf i (alone c (s.accAt c))).accAt c ∧
    (actionOf i s).out = s.out ++ (actionOf i (alone c (s.accAt c))).out := by
  have hread := ensureTable_tabRead ht
  have hread' := ensureTable_tabRead (alone_tableSound c (s.accAt c))
  have hacc : (alone c (s.accAt c)).accOf c = s.accOf c := by rw [State.accOf, alone_accAt, State.accOf]
  have hout := alone_out c (s.accAt c)
  cases i <;> cases hi
  case init.refl => simp [actionOf, State.openCtx, hout]
  case final.refl => simp [actionOf, State.closeCtx, hacc, hout]
  case fold.refl b => simp [actionOf, State.foldByte, hread, hread', hacc, hout]
  case foldl.refl b => simp [actionOf, State.foldClose, State.closeCtx, hread, hread', hacc, hout]
  case foldf.refl b => simp [actionOf, State.openFold, hread, hread', hout]
  case foldfl.refl b => simp [actionOf, State.openFoldClose, State.closeCtx, hread, hread', hout]

/-- The events that commands of context `c` deliver one after another, from the value `a` of its accumulator on: a
function of these two alone. -/
def crcsOf (c : Ctx) : Option Word32 → List CmdWord → List OutEvent
  | _, [] => []
  | a, w :: ws =>
    match decode w with
    | .command i => (actionOf i (alone c a)).out ++ crcsOf c ((actionOf i (alone c a)).accAt c) ws
    | .illegalOpcode => crcsOf c a ws
    | .reservedField => crcsOf c a ws

theorem crcsOf_cons {c : Ctx} {w : CmdWord} {i : Instr} (hd : decode w = .command i) (a : Option Word32)
    (ws : List CmdWord) :
    crcsOf c a (w :: ws) = (actionOf i (alone c a)).out ++ crcsOf c ((actionOf i (alone c a)).accAt c) ws := by
  simp only [crcsOf, hd]

theorem namesCtx_of_decode {w : CmdWord} {i : Instr} (hd : decode w = .command i) (c : Ctx) :
    namesCtx c w = (ctxOperand i == some c) := by
  simp only [namesCtx, hd]

/-- The checksums of context `c` from the command `w` on: those that `w` delivers, then those from the value it leaves
on. A command that does not name `c` delivers none and leaves that value. -/
theorem action_delivers_crcsOf {w : CmdWord} {i : Instr} {s : State} (ht : s.TableSound) (hd : decode w = .command i)
    (c : Ctx) (ws : List CmdWord) :
    ∃ new, (actionOf i s).out = s.out ++ new ∧
      new.filter (isCrcOf c) ++ crcsOf c ((actionOf i s).accAt c) (ws.filter (namesCtx c)) =
        crcsOf c (s.accAt c) ((w :: ws).filter (namesCtx c)) := by
  obtain ⟨new, hnew, hkind⟩ := action_appends i s c
  have hnames := namesCtx_of_decode hd c
  refine ⟨new, hnew, ?_⟩
  by_cases hi : ctxOperand i = some c
  · obtain ⟨hacc, hout⟩ := action_alone ht hi
    have hall : new.filter (isCrcOf c) = new := List.filter_eq_self.2 fun e h => by simp [hkind e h, hi]
    rw [List.filter_cons_of_pos (by simp [hnames, hi]), crcsOf_cons hd, hall, hacc,
      List.append_cancel_left (hnew.symm.trans hout)]
  · have hnone : new.filter (isCrcOf c) = [] := List.filter_eq_nil_iff.2 fun e h => by simp [hkind e h, hi]
    rw [List.filter_cons_of_neg (by simp [hnames, hi]), hnone, (action_ctx i s c hi).1, List.nil_append]

/-- Whatever else a run without a fault does, it delivers for a context the checksums of its commands alone. -/
theorem run_delivers_crcsOf (c : Ctx) (ws : List CmdWord) {s t : State} (ht : s.TableSound)
    (hws : s.prog.drop s.pc = ws) (hx : run ws.length s = .next t) (he : t.err = false) :
    ∃ new, t.out = s.out ++ new ∧ new.filter (isCrcOf c) = crcsOf c (s.accAt c) (ws.filter (namesCtx c)) := by
  induction ws generalizing s with
  | nil => cases hx; exact ⟨[], (List.append_nil _).symm, rfl⟩
  | cons w ws ih =>
    obtain ⟨i, hd, -, hrest, hrun⟩ := faultless_run_cons hws hx he
    obtain ⟨now, hnow, hfirst⟩ := action_delivers_crcsOf (s := s.advancePc) ht hd c ws
    have ht' : (actionOf i s.advancePc).countDone.TableSound := action_keeps_tableSound i (s := s.advancePc) ht
    obtain ⟨later, hlater, hcrcs⟩ := ih ht' hrest hrun
    rw [countDone_out, hnow, advancePc_out, List.append_assoc] at hlater
    rw [advancePc_accAt] at hfirst
    exact ⟨now ++ later, hlater, by rw [List.filter_append, hcrcs, countDone_accAt, hfirst]⟩

/-- Settles O57: each run delivers for the context what its commands alone deliver, from accumulators that agree. -/
theorem contextsAreIndependent : Obligations.ContextsAreIndependent := by
  intro s₁ s₂ t₁ t₂ c ws₁ ws₂ hinv₁ hinv₂ hacc _ hws₁ hws₂ hsame hrun₁ hrun₂ he₁ he₂
  obtain ⟨new₁, hout₁, hcrcs₁⟩ := run_delivers_crcsOf c ws₁ hinv₁.tableSound hws₁ hrun₁ he₁
  obtain ⟨new₂, hout₂, hcrcs₂⟩ := run_delivers_crcsOf c ws₂ hinv₂.tableSound hws₂ hrun₂ he₂
  exact ⟨new₁, new₂, hout₁, hout₂, by rw [hcrcs₁, hcrcs₂, hacc, hsame]⟩

end Sys2Proof.Machine

namespace Sys2Proof.Tests

open Sys2Proof Sys2Proof.Machine

/-- In both runs of `witness_ContextsAreIndependent` context 1 delivers the one checksum of its `FINAL`. -/
theorem interleaved_runs_deliver_one_checksum {s t : State}
    (hs : s = opened [0x3100#16] ∨ s = opened [0x2000#16, 0x3100#16])
    (hx : run (s.prog.drop s.pc).length s = .next t) (he : t.err = false) :
    ∃ new, t.out = s.out ++ new ∧ new.filter (isCrcOf 1#4) = [{ kind := .crc, id := 1#8, value := 0#32 }] := by
  obtain rfl | rfl := hs
  · exact run_delivers_crcsOf 1#4 _ (opened_inv _).tableSound rfl hx he
  · exact run_delivers_crcsOf 1#4 _ (opened_inv _).tableSound rfl hx he

end Sys2Proof.Tests
end

section
/-! PROOFS. Decoding and encoding (30_encoding.md R74 to R80, R84): what a word decodes to, told by its value as a
number, and that encoding is the inverse of decoding; from these the opcode map, the faults of a word that is no command,
and the words of stream beats. -/

namespace Sys2Proof.Machine

/-! ## Encoding is the inverse of decoding -/

/-- Decoding is the left inverse of encoding (30_encoding.md R80). -/
theorem decode_encode (i : Instr) : decode (encode i) = .command i := by
  cases i <;> simp [decode, encode, Instr.op, Instr.ctxBits, Instr.immBits, whenZero]

/-- A word decodes to a command exactly when it is the encoding of that command (30_encoding.md R80). -/
theorem decode_eq_command_iff (w : CmdWord) (i : Instr) : decode w = .command i ↔ encode i = w :=
  ⟨encode_of_decode, fun h => h ▸ decode_encode i⟩

/-- The sum that `encode` is (30_encoding.md R80). -/
theorem encode_toNat (i : Instr) :
    (encode i).toNat = 0x1000 * i.op.toNat + 0x100 * i.ctxBits.toNat + i.immBits.toNat := by
  rw [encode, packWord_toNat]
  omega

/-! ## Decoding by the value of the word -/

/-- `decode` as 30_encoding.md R80 states it: a nested test of the word read as a number. -/
def decodeNumber (n : Nat) : Decoded :=
  if n / 4096 = 0 then (if n % 4096 = 0 then .command .nop else .reservedField)
  else if n / 4096 = 1 then (if n % 4096 = 0 then .command .build else .reservedField)
  else if n / 4096 = 2 then
    (if n % 256 = 0 then .command (.init (BitVec.ofNat 4 (n / 256))) else .reservedField)
  else if n / 4096 = 3 then
    (if n % 256 = 0 then .command (.final (BitVec.ofNat 4 (n / 256))) else .reservedField)
  else if n / 4096 = 4 then .command (.fold (BitVec.ofNat 4 (n / 256)) (BitVec.ofNat 8 n))
  else if n / 4096 = 5 then .command (.foldl (BitVec.ofNat 4 (n / 256)) (BitVec.ofNat 8 n))
  else if n / 4096 = 6 then .command (.foldf (BitVec.ofNat 4 (n / 256)) (BitVec.ofNat 8 n))
  else if n / 4096 = 7 then .command (.foldfl (BitVec.ofNat 4 (n / 256)) (BitVec.ofNat 8 n))
  else if n / 4096 = 8 then
    (if n / 256 % 16 = 0 then .command (.trd (BitVec.ofNat 8 n)) else .reservedField)
  else .illegalOpcode

theorem ctxField_eq_ofNat (w : CmdWord) : ctxField w = BitVec.ofNat 4 (w.toNat / 256) :=
  BitVec.eq_of_toNat_eq (ctxField_toNat w)

theorem immField_eq_ofNat (w : CmdWord) : immField w = BitVec.ofNat 8 w.toNat :=
  BitVec.eq_of_toNat_eq (immField_toNat w)

theorem ctxField_beq_zero (w : CmdWord) : (ctxField w == 0#4) = decide (w.toNat / 256 % 16 = 0) := by
  rw [Bool.eq_iff_iff, beq_iff_eq, ← BitVec.toNat_inj, ctxField_toNat, decide_eq_true_iff]
  rfl

theorem immField_beq_zero (w : CmdWord) : (immField w == 0#8) = decide (w.toNat % 256 = 0) := by
  rw [Bool.eq_iff_iff, beq_iff_eq, ← BitVec.toNat_inj, immField_toNat, decide_eq_true_iff]
  rfl

/-- The two must-be-zero fields of `NOP` and `BUILD` are one field of twelve bits. -/
theorem operandFields_beq_zero (w : CmdWord) :
    (ctxField w == 0#4 && immField w == 0#8) = decide (w.toNat % 4096 = 0) := by
  rw [ctxField_beq_zero, immField_beq_zero, ← Bool.decide_and]
  exact decide_eq_decide.2 (by omega)

theorem whenZero_decide (p : Prop) [Decidable p] (i : Instr) :
    whenZero (decide p) i = if p then .command i else .reservedField := by
  by_cases h : p <;> simp [whenZero, h]

/-- Decoding by fields is the nested test on the number: the fields are its digits. -/
theorem decode_eq_decodeNumber (w : CmdWord) : decode w = decodeNumber w.toNat := by
  simp only [decode, decodeNumber, opField_toNat, operandFields_beq_zero]
  simp only [immField_beq_zero, ctxField_beq_zero, whenZero_decide]
  rw [ctxField_eq_ofNat, immField_eq_ofNat]
  generalize w.toNat / 4096 = op
  split
  case h_10 h0 h1 h2 h3 h4 h5 h6 h7 h8 =>
    rw [if_neg h0, if_neg h1, if_neg h2, if_neg h3, if_neg h4, if_neg h5, if_neg h6, if_neg h7, if_neg h8]
  all_goals rfl

/-- Settles O7: decoding by fields is the nested test, and a command is what its own encoding decodes to. -/
theorem decodeAndEncodeAgree : Obligations.DecodeAndEncodeAgree :=
  ⟨decode_eq_decodeNumber, rfl, rfl, fun c => encode_toNat (.init c), fun c => encode_toNat (.final c),
    fun c b => encode_toNat (.fold c b), fun c b => encode_toNat (.foldl c b), fun c b => encode_toNat (.foldf c b),
    fun c b => encode_toNat (.foldfl c b), fun i => encode_toNat (.trd i), decode_encode, fun _ _ => encode_of_decode⟩

/-! ## Words that are no command -/

/-- A must-be-zero field of the word `n` with `op` 0 to 8 is not zero (30_encoding.md R77). -/
def ReservedFieldSet (n : Nat) : Prop :=
  ((n / 4096 = 0 ∨ n / 4096 = 1) ∧ n % 4096 ≠ 0) ∨ ((n / 4096 = 2 ∨ n / 4096 = 3) ∧ n % 256 ≠ 0) ∨
  (n / 4096 = 8 ∧ n / 256 % 16 ≠ 0)

/-- The three things a word can decode to, and when (30_encoding.md R76, R77, R80). -/
theorem decode_cases (w : CmdWord) :
    (9 ≤ w.toNat / 4096 ∧ decode w = .illegalOpcode) ∨
    (ReservedFieldSet w.toNat ∧ decode w = .reservedField) ∨
    (w.toNat / 4096 ≤ 8 ∧ ¬ReservedFieldSet w.toNat ∧ ∃ i, decode w = .command i) := by
  simp only [ReservedFieldSet, decode, opField_toNat, operandFields_beq_zero]
  simp only [immField_beq_zero, ctxField_beq_zero, whenZero_decide]
  split
  case h_10 => exact .inl ⟨by simp only [imp_false] at *; omega, rfl⟩
  case h_5 | h_6 | h_7 | h_8 => exact .inr (.inr ⟨by omega, by omega, _, rfl⟩)
  all_goals
    split
    · exact .inr (.inr ⟨by omega, by omega, _, rfl⟩)
    · exact .inr (.inl ⟨by omega, rfl⟩)

theorem not_reservedFieldSet {n : Nat} (h4 : 4 ≤ n / 4096) (h : n / 4096 ≠ 8) : ¬ReservedFieldSet n := by
  unfold ReservedFieldSet
  omega

theorem decode_illegalOpcode {w : CmdWord} (h : 9 ≤ w.toNat / 4096) : decode w = .illegalOpcode := by
  obtain ⟨-, hd⟩ | ⟨hr, -⟩ | ⟨h8, -⟩ := decode_cases w
  · exact hd
  · exact absurd hr (not_reservedFieldSet (by omega) (by omega))
  · omega

theorem decode_reservedField {w : CmdWord} (h : ReservedFieldSet w.toNat) : decode w = .reservedField := by
  obtain ⟨h9, -⟩ | ⟨-, hd⟩ | ⟨-, hr, -⟩ := decode_cases w
  · exact absurd h (not_reservedFieldSet (by omega) (by omega))
  · exact hd
  · exact absurd h hr

/-- A word of the fold group is a command whatever its other bits are (30_encoding.md R75, R77). -/
theorem decode_foldGroup {w : CmdWord} (h4 : 4 ≤ w.toNat / 4096) (h7 : w.toNat / 4096 ≤ 7) :
    ∃ i, decode w = .command i := by
  obtain ⟨h9, -⟩ | ⟨hr, -⟩ | ⟨-, -, hd⟩ := decode_cases w
  · omega
  · exact absurd hr (not_reservedFieldSet h4 (by omega))
  · exact hd

section
variable {s : State} {w : CmdWord} (he : s.err = false) (hw : s.nextWord = some w)
include he hw

theorem step_illegalOpcode (hd : decode w = .illegalOpcode) : step s = .next (s.advancePc.trap .illegalOpcode w) := by
  simp [step, hw, stepWord, hd, rejectWord_eq, he]

theorem step_reservedField (hd : decode w = .reservedField) : step s = .next (s.advancePc.trap .reservedField w) := by
  simp [step, hw, stepWord, hd, rejectWord_eq, he]

end

/-- Settles O9: such a word has `op` 9 or more. -/
theorem reservedOpcodesFault : Obligations.ReservedOpcodesFault := fun _ _ he hw hop =>
  step_illegalOpcode he hw (decode_illegalOpcode (by omega))

/-- Settles O10: a non-zero must-be-zero field is the second way to be no command, and the fold group has no such
field. -/
theorem nonzeroReservedFieldsFault : Obligations.NonzeroReservedFieldsFault := by
  refine ⟨fun s w he hw hfield => ?_, fun _ => decode_foldGroup⟩
  have hd := decode_reservedField hfield
  exact ⟨fun i => by simp [hd], step_reservedField he hw hd⟩

/-! ## The opcode map -/

/-- Masking works field by field. -/
theorem packWord_and (op op' : BitVec 4) (c c' : Ctx) (m m' : Byte) :
    packWord op c m &&& packWord op' c' m' = packWord (op &&& op') (c &&& c') (m &&& m') :=
  BitVec.and_append.trans (congrArg (· ++ (m &&& m')) BitVec.and_append)

theorem packWord_inj {op op' : BitVec 4} {c c' : Ctx} {m m' : Byte} :
    packWord op c m = packWord op' c' m' ↔ op = op' ∧ c = c' ∧ m = m' := by
  refine ⟨fun h => ⟨?_, ?_, ?_⟩, fun ⟨ho, hc, hm⟩ => by rw [ho, hc, hm]⟩
  · simpa using congrArg opField h
  · simpa using congrArg ctxField h
  · simpa using congrArg immField h

/-- The words of a row: a mask with all bits of the opcode leaves the opcode, and 0 of the other fields. -/
theorem and_mask_iff (w : CmdWord) (op : BitVec 4) (cmask : Ctx) (mmask : Byte) :
    w &&& packWord (.allOnes 4) cmask mmask = packWord op 0#4 0#8 ↔
      ∃ c m, c &&& cmask = 0#4 ∧ m &&& mmask = 0#8 ∧ packWord op c m = w := by
  rw [← pack_fields w, packWord_and, BitVec.and_allOnes, packWord_inj]
  constructor
  · rintro ⟨rfl, hc, hm⟩
    exact ⟨_, _, hc, hm, rfl⟩
  · rintro ⟨c, m, hc, hm, h⟩
    obtain ⟨ho, rfl, rfl⟩ := packWord_inj.1 h
    exact ⟨ho.symm, hc, hm⟩

/-- The row of a fold-group command: any context and byte (30_encoding.md R74). -/
theorem and_opMask_iff (w : CmdWord) (op : BitVec 4) :
    w &&& 0xF000#16 = packWord op 0#4 0#8 ↔ ∃ c m, packWord op c m = w :=
  (and_mask_iff w op 0#4 0#8).trans (by simp only [BitVec.and_zero, true_and])

/-- The row of `INIT` or `FINAL`: any context, and a byte that must be zero. -/
theorem and_ctxMask_iff (w : CmdWord) (op : BitVec 4) :
    w &&& 0xF0FF#16 = packWord op 0#4 0#8 ↔ ∃ c, packWord op c 0#8 = w :=
  (and_mask_iff w op 0#4 (.allOnes 8)).trans
    (by simp only [BitVec.and_zero, BitVec.and_allOnes, true_and, exists_eq_left])

/-- The row of `TRD`: any index, and a context that must be zero. -/
theorem and_indexMask_iff (w : CmdWord) (op : BitVec 4) :
    w &&& 0xFF00#16 = packWord op 0#4 0#8 ↔ ∃ m, packWord op 0#4 m = w :=
  (and_mask_iff w op (.allOnes 4) 0#8).trans
    (by simp only [BitVec.and_zero, BitVec.and_allOnes, true_and, exists_and_left, exists_eq_left])

/-- The mask of `NOP` and `BUILD` leaves the whole word. -/
theorem and_wordMask (w : CmdWord) : w &&& 0xFFFF#16 = w := BitVec.and_allOnes

/-- Every command's word is in the row of that command. -/
theorem encode_in_row (i : Instr) : encode i &&& i.mask = i.matchWord := by
  cases i with
  | nop => exact Laws.OpcodeRow.nop
  | build => exact Laws.OpcodeRow.build
  | init c => exact Laws.OpcodeRow.init c
  | final c => exact Laws.OpcodeRow.final c
  | fold c b => exact Laws.OpcodeRow.fold c b
  | foldl c b => exact Laws.OpcodeRow.foldl c b
  | foldf c b => exact Laws.OpcodeRow.foldf c b
  | foldfl c b => exact Laws.OpcodeRow.foldfl c b
  | trd j => exact Laws.OpcodeRow.trd j

theorem row_mem_opcodeRows (i : Instr) : (i.matchWord, i.mask) ∈ opcodeRows := by
  cases i <;> simp [Instr.matchWord, Instr.mask, opcodeRows]

/-- Two rows that agree where both masks look are one row. -/
theorem opcodeRows_disjoint :
    ∀ r₁ ∈ opcodeRows, ∀ r₂ ∈ opcodeRows, r₁.1 &&& r₂.2 = r₂.1 &&& r₁.2 → r₁ = r₂ := by
  simp [opcodeRows]

theorem row_unique {r₁ r₂ : CmdWord × CmdWord} (h₁ : r₁ ∈ opcodeRows) (h₂ : r₂ ∈ opcodeRows) {w : CmdWord}
    (hw₁ : w &&& r₁.2 = r₁.1) (hw₂ : w &&& r₂.2 = r₂.1) : r₁ = r₂ :=
  opcodeRows_disjoint r₁ h₁ r₂ h₂ (by rw [← hw₁, ← hw₂, BitVec.and_assoc, BitVec.and_assoc, BitVec.and_comm r₁.2])

theorem decode_ne_command_of_no_row {w : CmdWord} (h : ∀ row ∈ opcodeRows, w &&& row.2 ≠ row.1) (i : Instr) :
    decode w ≠ .command i := fun hd =>
  h _ (row_mem_opcodeRows i) (by rw [← encode_of_decode hd, encode_in_row])

/-- A word that is no command faults with cause 1 or 2 (30_encoding.md R76, R77). -/
theorem step_no_command {s : State} {w : CmdWord} (he : s.err = false) (hw : s.nextWord = some w)
    (h : ∀ i, decode w ≠ .command i) : ∃ cause : BitVec 4, (cause = 1#4 ∨ cause = 2#4) ∧
      step s = .next { s with pc := s.pc + 1, err := true, ecause := cause, ecmd := w } := by
  cases hd : decode w with
  | command i => exact absurd hd (h i)
  | illegalOpcode => exact ⟨1#4, .inl rfl, step_illegalOpcode he hw hd⟩
  | reservedField => exact ⟨2#4, .inr rfl, step_reservedField he hw hd⟩

/-- Settles O8: masked and unmasked words compare field by field. -/
theorem opcodeMapIsMatchAndMask : Obligations.OpcodeMapIsMatchAndMask := by
  refine ⟨fun w => ?_, fun r₁ h₁ r₂ h₂ w => row_unique h₁ h₂,
    fun s w he hw h => ⟨decode_ne_command_of_no_row h, step_no_command he hw (decode_ne_command_of_no_row h)⟩⟩
  simp only [decode_eq_command_iff, and_wordMask]
  exact ⟨eq_comm, eq_comm, and_ctxMask_iff w 2#4, and_ctxMask_iff w 3#4, and_opMask_iff w 4#4, and_opMask_iff w 5#4,
    and_opMask_iff w 6#4, and_opMask_iff w 7#4, and_indexMask_iff w 8#4⟩

/-! ## Stream beats -/

/-- The word of a beat is the encoding of the fold-group command of its flags (30_encoding.md R75, R84). -/
theorem beatWord_eq_encode (t : Beat) : t.word = encode (foldGroup t.first t.last t.ctx t.data) := by
  obtain ⟨c, b, first, last⟩ := t
  cases first <;> cases last <;> simp [Beat.word, foldGroup, encode, Instr.op, Instr.ctxBits, Instr.immBits]

/-- The opcode of a beat's word is 01 and the two flags (30_encoding.md R75). -/
theorem beatOp_toNat : ∀ first last : Bool,
    (0#1 ++ 1#1 ++ BitVec.ofBool first ++ BitVec.ofBool last).toNat = 4 + 2 * first.toNat + last.toNat := by
  decide

theorem beatWord_toNat (t : Beat) : t.word.toNat =
    0x4000 + 0x2000 * t.first.toNat + 0x1000 * t.last.toNat + 0x100 * t.ctx.toNat + t.data.toNat := by
  rw [Beat.word, packWord_toNat, beatOp_toNat]
  omega

/-- The opcode of a word with bits 15:14 = 01 is that of a beat with bits 13 and 12 for its flags. -/
theorem opField_of_foldGroup {w : CmdWord} (h : w.toNat / 0x4000 = 1) :
    opField w = 0#1 ++ 1#1 ++ BitVec.ofBool (w.getLsbD 13) ++ BitVec.ofBool (w.getLsbD 12) := by
  apply BitVec.eq_of_toNat_eq
  rw [opField_toNat, beatOp_toNat, BitVec.getLsbD, BitVec.getLsbD, Nat.toNat_testBit, Nat.toNat_testBit]
  omega

/-- A word of the fold group is the word of the beat of its fields. -/
theorem beatWord_of_foldGroup {w : CmdWord} (h : w.toNat / 0x4000 = 1) :
    w = Beat.word { ctx := ctxField w, data := immField w, first := w.getLsbD 13, last := w.getLsbD 12 } := by
  rw [Beat.word, ← opField_of_foldGroup h, pack_fields]

/-- Settles O11: a beat is the encoding of its command, and the opcode of the fold group spells the two flags. -/
theorem streamBeatIsItsCommand : Obligations.StreamBeatIsItsCommand := by
  refine fun s t => ⟨rfl, beatWord_toNat t, ?_, fun _ => beatWord_of_foldGroup⟩
  rw [beatWord_eq_encode, decode_encode]
  rfl

end Sys2Proof.Machine
end

section
/-! PROOFS. The result port (30_encoding.md R82): a step appends no event or one, and the registers that the port shows
are those of the event appended. -/

namespace Sys2Proof.Machine

/-- The events of a step: it leaves `OUT`, or it appends one event, which `RESULT` and `RSRC` then hold. -/
theorem step_event {s t : State} (hx : step s = .next t) :
    t.out = s.out ∨ ∃ e : OutEvent, t.out = s.out ++ [e] ∧ t.result = some e.value ∧
      t.rsrc = some (rsrcOf e.kind e.id) ∧ t.rv = true := by
  cases stepsTo_of_step hx with
  | idle => exact .inl rfl
  | discard => exact .inl rfl
  | fault => exact .inl rfl
  | complete w i =>
    obtain ⟨-, hout, -⟩ | ⟨-, e, hout, hres, hsrc, hrv, -⟩ := action_out i s.advancePc
    · exact .inl hout
    · exact .inr ⟨e, hout, hres, hsrc, hrv⟩

theorem newEvent_of_same {s t : State} (h : t.out = s.out) : newEvent s t = none := by
  simp [newEvent, h]

theorem newEvent_of_append {s t : State} {e : OutEvent} (h : t.out = s.out ++ [e]) : newEvent s t = some e := by
  simp [newEvent, h]

/-- Settles O40: the newest element of `OUT` is new just where a step has appended it. -/
theorem resultPortShowsEachEvent : Obligations.ResultPortShowsEachEvent := fun s t dv ds hx => by
  obtain hout | ⟨e, hout, hres, hsrc, hrv⟩ := step_event hx
  · simp [resultPort, newEvent_of_same hout, hout]
  · refine ⟨by simp [resultPort, newEvent_of_append hout, hout], fun e' he' => ?_⟩
    obtain rfl : e = e' := by simpa using hout.symm.trans he'
    simp [resultPort, newEvent_of_append hout, State.readResult, State.readRsrc, hres, hsrc, hrv, rsrcOf]

end Sys2Proof.Machine
end

section
/-! PROOFS. The assembler (30_encoding.md R85): what each reader makes of the text its printer writes, with any text
after it in which the operand just read cannot go on. -/

namespace Sys2Proof.Machine

/-! ## The characters a printer writes, and those that may follow -/

theorem decDigit_digitChar : ∀ d < 10, decDigit (digitChar d) = some d := by decide

theorem hexDigit_digitChar : ∀ d < 16, hexDigit (digitChar d) = some d := by decide

theorem isBlank_digitChar : ∀ d < 16, isBlank (digitChar d) = false := by decide

theorem mnemonicOf_chars (i : Instr) : ∀ ch ∈ mnemonicOf i, isMnemonicChar ch = true := by
  cases i <;> exact List.all_eq_true.1 rfl

/-- The characters that can stand after an operand or a mnemonic: a blank, a comma, or the `;` of a comment. -/
def isDelimiter (ch : Char) : Bool := isBlank ch || ch == ',' || ch == ';'

theorem isDelimiter_iff (ch : Char) :
    isDelimiter ch = true ↔ ch.toNat = 32 ∨ ch.toNat = 9 ∨ ch.toNat = 44 ∨ ch.toNat = 59 := by
  have hcode : ∀ k : Char, ch = k ↔ ch.toNat = k.toNat := fun k => Char.toNat_inj.symm
  simp only [isDelimiter, isBlank, Bool.or_eq_true, beq_iff_eq, hcode, or_assoc]
  rfl

theorem decDigit_delimiter {ch : Char} (h : isDelimiter ch = true) : decDigit ch = none := by
  have := (isDelimiter_iff ch).1 h
  simp only [decDigit, Bool.and_eq_true, decide_eq_true_eq]
  rw [if_neg (by omega)]

theorem hexDigit_delimiter {ch : Char} (h : isDelimiter ch = true) : hexDigit ch = none := by
  have := (isDelimiter_iff ch).1 h
  simp only [hexDigit, Bool.and_eq_true, decide_eq_true_eq]
  rw [if_neg (by omega), if_neg (by omega), if_neg (by omega)]

theorem isMnemonicChar_delimiter {ch : Char} (h : isDelimiter ch = true) : isMnemonicChar ch = false := by
  have := (isDelimiter_iff ch).1 h
  simp only [isMnemonicChar, Bool.or_eq_false_iff, Bool.and_eq_false_iff, decide_eq_false_iff_not]
  omega

/-- The text is empty or begins with a delimiter. -/
def Delimited (tail : List Char) : Prop := ∀ ch ∈ tail.head?, isDelimiter ch = true

theorem delimited_nil : Delimited [] := nofun

theorem delimited_cons {ch : Char} (h : isDelimiter ch = true) (tail : List Char) : Delimited (ch :: tail) := by
  simpa [Delimited] using h

/-- What may stand after the operands begins with a delimiter. -/
theorem delimited_of_atEnd {tail : List Char} (h : atEnd tail = true) : Delimited tail := by
  cases tail with
  | nil => exact delimited_nil
  | cons ch rest =>
    apply delimited_cons
    cases hb : isBlank ch
    · have hskip : skipBlanks (ch :: rest) = ch :: rest := List.dropWhile_cons_of_neg (by simp [hb])
      rw [atEnd, hskip] at h
      simp [isDelimiter, show (ch == ';') = true from h]
    · simp [isDelimiter, hb]

/-! ## Numbers -/

section
variable {digit : Char → Option Nat} (hstop : ∀ ch, isDelimiter ch = true → digit ch = none)
include hstop

theorem readDigits_delimited (base acc : Nat) {tail : List Char} (ht : Delimited tail) :
    readDigits digit base acc tail = (acc, tail) := by
  cases tail with
  | nil => rfl
  | cons ch rest => simp [readDigits, hstop ch (ht ch rfl)]

theorem readNumber_one {base bound d : Nat} {ch : Char} {tail : List Char} (hd : digit ch = some d) (hb : d < bound)
    (ht : Delimited tail) : readNumber digit base bound (ch :: tail) = some (d, tail) := by
  simp [readNumber, hd, readDigits_delimited hstop base d ht, hb]

theorem readNumber_two {base bound d d' : Nat} {ch ch' : Char} {tail : List Char} (hd : digit ch = some d)
    (hd' : digit ch' = some d') (hb : d * base + d' < bound) (ht : Delimited tail) :
    readNumber digit base bound (ch :: ch' :: tail) = some (d * base + d', tail) := by
  simp [readNumber, readDigits, hd, hd', readDigits_delimited hstop base _ ht, hb]

end

/-! ## Operands -/

section
variable {tail : List Char}

theorem readCtx_printCtx (c : Ctx) (ht : Delimited tail) : readCtx (printCtx c ++ tail) = some (c, tail) := by
  have hc := c.isLt
  unfold printCtx readCtx
  split
  next hlt =>
    rw [List.singleton_append,
      readNumber_one (fun _ => decDigit_delimiter) (decDigit_digitChar _ hlt) hc ht]
    simp
  next hge =>
    have hone : decDigit '1' = some 1 := by decide
    rw [List.cons_append, List.singleton_append,
      readNumber_two (fun _ => decDigit_delimiter) hone (decDigit_digitChar (c.toNat - 10) (by omega)) (by omega) ht,
      show 1 * 10 + (c.toNat - 10) = c.toNat by omega]
    simp

theorem readIndex_printByte (b : Byte) (ht : Delimited tail) : readIndex (printByte b ++ tail) = some (b, tail) := by
  have hb := b.isLt
  have hdigits : b.toNat / 16 * 16 + b.toNat % 16 = b.toNat := by omega
  have hread := readNumber_two (base := 16) (bound := 256) (fun _ => hexDigit_delimiter)
    (hexDigit_digitChar (b.toNat / 16) (by omega)) (hexDigit_digitChar (b.toNat % 16) (by omega)) (by omega) ht
  rw [hdigits] at hread
  simp [readIndex, printByte, hread]

/-- A printed byte does not begin with a quote, so it is read as a number. -/
theorem readByte_printByte (b : Byte) (ht : Delimited tail) : readByte (printByte b ++ tail) = some (b, tail) :=
  (by rfl : readByte (printByte b ++ tail) = readIndex (printByte b ++ tail)).trans (readIndex_printByte b ht)

theorem skipBlanks_printCtx (c : Ctx) : skipBlanks (' ' :: (printCtx c ++ tail)) = printCtx c ++ tail := by
  have hblank : isBlank ' ' = true := rfl
  rw [skipBlanks, List.dropWhile_cons_of_pos hblank, printCtx]
  split
  · exact List.dropWhile_cons_of_neg (by simp [isBlank_digitChar c.toNat c.isLt])
  · rfl

theorem readComma_printByte (b : Byte) :
    readComma (',' :: ' ' :: (printByte b ++ tail)) = some (printByte b ++ tail) := rfl

variable (h : atEnd tail = true)
include h

theorem operandsN_tail (l : AsmLine) : operandsN l tail = some l := if_pos h

theorem operandsC_print (k : Ctx → AsmLine) (c : Ctx) :
    operandsC k (skipBlanks (' ' :: (printCtx c ++ tail))) = some (k c) := by
  rw [skipBlanks_printCtx]
  simp only [operandsC, readCtx_printCtx c (delimited_of_atEnd h), operandsN_tail h]

theorem operandsI_print (k : Byte → AsmLine) (b : Byte) :
    operandsI k (skipBlanks (' ' :: (printByte b ++ tail))) = some (k b) := by
  have hskip : skipBlanks (' ' :: (printByte b ++ tail)) = printByte b ++ tail := rfl
  simp only [hskip, operandsI, readIndex_printByte b (delimited_of_atEnd h), operandsN_tail h]

theorem operandsCB_print (k : Ctx → Byte → AsmLine) (c : Ctx) (b : Byte) :
    operandsCB k (skipBlanks (' ' :: (printCtx c ++ [',', ' '] ++ printByte b ++ tail))) = some (k c b) := by
  have hcomma : Delimited (',' :: ' ' :: (printByte b ++ tail)) := delimited_cons rfl _
  rw [List.append_assoc, List.append_assoc, skipBlanks_printCtx, operandsCB, operandsCtxThen, List.cons_append,
    List.singleton_append, readCtx_printCtx c hcomma]
  simp only [readComma_printByte, Option.bind_some, readByte_printByte b (delimited_of_atEnd h), operandsN_tail h]

/-! ## Lines -/

theorem atEnd_skipBlanks : atEnd (skipBlanks tail) = true := by
  simpa only [atEnd, skipBlanks, List.dropWhile_idempotent] using h

theorem readOperands_print (i : Instr) :
    readOperands (mnemonicOf i) (skipBlanks (operandText i ++ tail)) = some (.command i) := by
  cases i with
  | nop => exact operandsN_tail (atEnd_skipBlanks h) (.command .nop)
  | build => exact operandsN_tail (atEnd_skipBlanks h) (.command .build)
  | init c => exact operandsC_print h (fun c => .command (.init c)) c
  | final c => exact operandsC_print h (fun c => .command (.final c)) c
  | fold c b => exact operandsCB_print h (fun c b => .command (.fold c b)) c b
  | foldl c b => exact operandsCB_print h (fun c b => .command (.foldl c b)) c b
  | foldf c b => exact operandsCB_print h (fun c b => .command (.foldf c b)) c b
  | foldfl c b => exact operandsCB_print h (fun c b => .command (.foldfl c b)) c b
  | trd j => exact operandsI_print h (fun j => .command (.trd j)) j

theorem delimited_operandText (i : Instr) : Delimited (operandText i ++ tail) := by
  cases i with
  | nop | build => exact delimited_of_atEnd h
  | init | final | fold | foldl | foldf | foldfl | trd => exact delimited_cons rfl _

/-- The mnemonic of a printed command ends where its operands begin. -/
theorem mnemonic_print (i : Instr) :
    (printInstr i ++ tail).takeWhile isMnemonicChar = mnemonicOf i ∧
    (printInstr i ++ tail).dropWhile isMnemonicChar = operandText i ++ tail := by
  have hstop : (operandText i ++ tail).takeWhile isMnemonicChar = [] ∧
      (operandText i ++ tail).dropWhile isMnemonicChar = operandText i ++ tail := by
    have hdelim := delimited_operandText h i
    cases htext : operandText i ++ tail with
    | nil => exact ⟨rfl, rfl⟩
    | cons ch rest => simp [isMnemonicChar_delimiter (hdelim ch (by simp [htext]))]
  rw [printInstr, List.append_assoc, List.takeWhile_append_of_pos (mnemonicOf_chars i),
    List.dropWhile_append_of_pos (mnemonicOf_chars i), hstop.1, hstop.2, List.append_nil]
  exact ⟨rfl, rfl⟩

/-- A printed command, before anything that may stand after the operands, reads back as itself (30_encoding.md R85). -/
theorem readLine_print (i : Instr) : readLine (printInstr i ++ tail) = some (.command i) := by
  have hline : skipBlanks (printInstr i ++ tail) = printInstr i ++ tail := by cases i <;> rfl
  have hend : atEnd (printInstr i ++ tail) = false := by cases i <;> rfl
  obtain ⟨hmnemonic, hrest⟩ := mnemonic_print h i
  simp only [readLine, hend, hline, hmnemonic, hrest]
  exact readOperands_print h i

end

/-- Settles O50: a printed command reads back before anything that may stand after the operands. -/
theorem assemblerReadsWhatItPrints : Obligations.AssemblerReadsWhatItPrints := fun i comment =>
  ⟨by simpa using readLine_print (tail := []) rfl i, readLine_print rfl i⟩

end Sys2Proof.Machine
end

section
/-! PROOFS. The arithmetic of the table (40_table_construction.md R90, R91, R99, R101): the round is linear and loses
nothing, since the bit it shifts out comes back as bit 31; so the entries are linear in the index, and their top bytes
tell them apart. -/

namespace Sys2Proof.Machine

/-! ## One round -/

theorem crcRound_of_odd {v : Word32} (h : v.getLsbD 0 = true) : crcRound v = (v >>> 1) ^^^ Config.poly := if_pos h

theorem crcRound_of_even {v : Word32} (h : v.getLsbD 0 = false) : crcRound v = v >>> 1 :=
  if_neg (Bool.eq_false_iff.1 h)

@[simp] theorem crcRound_zero : crcRound 0#32 = 0#32 := crcRound_of_even rfl

/-- Bit 31, which the shift leaves free, is set in the polynomial: the bit shifted out comes back there. -/
theorem crcRound_bit31 (v : Word32) : (crcRound v).getLsbD 31 = v.getLsbD 0 := by
  cases h : v.getLsbD 0
  · simp [crcRound_of_even h]
  · simp [crcRound_of_odd h, Config.poly]

/-- Settles O41: the two branches of the round, and the top bit of the polynomial. -/
theorem roundShiftsAndReduces : Obligations.RoundShiftsAndReduces :=
  ⟨fun _ => crcRound_of_odd, fun _ => crcRound_of_even, crcRound_bit31, crcRound_zero⟩

/-- What a round adds to the shifted word, by the bit shifted out. -/
def feedback (b : Bool) : Word32 := if b then Config.poly else 0#32

theorem feedback_xor : ∀ a b : Bool, feedback (a ^^ b) = feedback a ^^^ feedback b := by decide

theorem crcRound_eq_feedback (v : Word32) : crcRound v = (v >>> 1) ^^^ feedback (v.getLsbD 0) := by
  cases h : v.getLsbD 0
  · simp [crcRound_of_even h, feedback]
  · exact crcRound_of_odd h

/-- The round is linear, the shift and the feedback both being so (40_table_construction.md R101). -/
theorem crcRound_xor (u v : Word32) : crcRound (u ^^^ v) = crcRound u ^^^ crcRound v := by
  simp only [crcRound_eq_feedback, BitVec.ushiftRight_xor_distrib, BitVec.getLsbD_xor, feedback_xor]
  ac_rfl

/-- A round that ends with bit 31 clear was a plain shift of an even word. -/
theorem toNat_of_crcRound_lt {v : Word32} (h : (crcRound v).toNat < 2 ^ 31) : v.toNat = 2 * (crcRound v).toNat := by
  have heven : v.getLsbD 0 = false := by
    rw [← crcRound_bit31]
    exact Nat.testBit_lt_two_pow h
  rw [crcRound_of_even heven, BitVec.toNat_ushiftRight, Nat.shiftRight_eq_div_pow]
  have hmod : v.toNat % 2 = 0 := by simpa [BitVec.getLsbD] using heven
  omega

/-! ## Several rounds -/

theorem crcRound_iterate_xor (n : Nat) (u v : Word32) : crcRound^[n] (u ^^^ v) = crcRound^[n] u ^^^ crcRound^[n] v := by
  induction n generalizing u v with
  | zero => rfl
  | succ n ih => rw [Function.iterate_succ_apply, crcRound_xor, ih]; rfl

/-- Rounds that end with their top `n` bits clear were plain shifts, of a multiple of `2 ^ n`. -/
theorem toNat_of_crcRound_iterate_lt {n : Nat} (hn : n ≤ 32) {v : Word32}
    (h : (crcRound^[n] v).toNat < 2 ^ (32 - n)) : v.toNat = 2 ^ n * (crcRound^[n] v).toNat := by
  induction n generalizing v with
  | zero => simp
  | succ n ih =>
    rw [Function.iterate_succ_apply] at h ⊢
    have hround : (crcRound v).toNat = 2 ^ n * (crcRound^[n] (crcRound v)).toNat :=
      ih (by omega) (h.trans_le (Nat.pow_le_pow_right (by omega) (by omega)))
    have hlt : (crcRound v).toNat < 2 ^ 31 := calc
      (crcRound v).toNat = 2 ^ n * (crcRound^[n] (crcRound v)).toNat := hround
      _ < 2 ^ n * 2 ^ (32 - (n + 1)) := Nat.mul_lt_mul_of_pos_left h (by positivity)
      _ = 2 ^ 31 := by rw [← Nat.pow_add]; congr 1; omega
    rw [toNat_of_crcRound_lt hlt, hround]
    ring

/-! ## The entries -/

theorem entry_xor (i j : Byte) : entry (i ^^^ j) = entry i ^^^ entry j := by
  simp only [entry, BitVec.setWidth_xor, crcRound_iterate_xor]

@[simp] theorem entry_zero : entry 0#8 = 0#32 := Function.iterate_fixed crcRound_zero _

/-- Only the entry of index 0 has a clear top byte: its eight rounds shifted out the whole index. -/
theorem eq_zero_of_entry_top {i : Byte} (h : (entry i).extractLsb' 24 8 = 0#8) : i = 0#8 := by
  have htop : (entry i).toNat < 2 ^ (32 - 8) := by
    have hdiv : (entry i).toNat / 2 ^ 24 % 2 ^ 8 = 0 := by
      simpa [BitVec.extractLsb'_toNat, Nat.shiftRight_eq_div_pow] using congrArg BitVec.toNat h
    omega
  have hshift : (i.setWidth 32).toNat = 2 ^ 8 * (entry i).toNat := toNat_of_crcRound_iterate_lt (by decide) htop
  rw [BitVec.toNat_setWidth_of_le (by decide)] at hshift
  exact BitVec.eq_of_toNat_eq (by rw [BitVec.toNat_ofNat]; omega)

/-- Entries with the same top byte differ, by linearity, by an entry with a clear one. -/
theorem entry_top_injective : Function.Injective fun i : Byte => (entry i).extractLsb' 24 8 := by
  intro i j h
  have h' : (entry i).extractLsb' 24 8 = (entry j).extractLsb' 24 8 := h
  rw [← BitVec.xor_eq_zero_iff]
  apply eq_zero_of_entry_top
  rw [entry_xor, BitVec.extractLsb'_xor, h', BitVec.xor_self]

theorem byte_finite : Finite Byte := .of_injective BitVec.toFin BitVec.toFin_injective

/-- Every byte is the top byte of an entry, there being as many entries as bytes. -/
theorem entry_top_surjective : Function.Surjective fun i : Byte => (entry i).extractLsb' 24 8 :=
  have := byte_finite
  Finite.surjective_of_injective entry_top_injective

/-- Settles O44: round and entry are linear, and the top byte of an entry tells its index. -/
theorem tableIsLinearAndDistinct : Obligations.TableIsLinearAndDistinct :=
  ⟨crcRound_xor, entry_xor, entry_zero, fun _ _ h => entry_top_injective (congrArg (BitVec.extractLsb' 24 8) h),
    fun _ _ h => entry_top_injective h, entry_top_surjective, by decide, by decide⟩

/-- Settles O43: the rounds leave 0 alone, and eight of them take 1 to the value named. -/
theorem firstTwoEntries : Obligations.FirstTwoEntries := ⟨entry_zero, by decide⟩

end Sys2Proof.Machine
end

section
/-! PROOFS. The table in the machine (40_table_construction.md R92 to R98): the order of construction leaves no trace,
which commands construct, and what `BUILD` and `TRD` do. -/

namespace Sys2Proof.Machine

/-! ## The order of construction -/

/-- Tables in canonical form that hold the same at every index are the same data. -/
theorem memory_ext_read {t u : Memory} (ht : t.wf = true) (hu : u.wf = true) (h : ∀ i : Byte, t.read i = u.read i) :
    t = u := by
  refine memory_ext t u 0 ht hu fun k => ?_
  obtain hk | hk := Nat.lt_or_ge k 256
  · simpa [Memory.read, Nat.mod_eq_of_lt hk] using h (BitVec.ofNat 8 k)
  · rw [lookup_above t 0 ht k hk, lookup_above u 0 hu k hk]

/-- Writing every index leaves `entry(i)` everywhere, in any order and onto any table (40_table_construction.md R92). -/
theorem read_fill_perm {is : List Nat} (hp : is.Perm (List.range 256)) (t : Memory) (i : Byte) :
    (Memory.fill is t).read i = some (entry i) :=
  read_fill_mem is t i (hp.mem_iff.2 (List.mem_range.2 i.isLt))

/-- Settles O42: every index is among those written, and a table in canonical form is what it reads. -/
theorem constructionOrderIsUnobservable : Obligations.ConstructionOrderIsUnobservable := fun is t hp =>
  ⟨read_fill_perm hp t, fun ht => memory_ext_read (fill_wf is t ht) full_wf fun i => by
    rw [read_fill_perm hp t i, read_full]⟩

/-! ## Which commands construct the table -/

theorem exec_params_prog {s t : State} {i : Instr} (hx : exec i s = .next t) :
    t.params = s.params ∧ t.prog = s.prog := by
  obtain ⟨-, rfl⟩ | ⟨-, -, rfl⟩ | ⟨-, cause, -, rfl⟩ := exec_cases i s t hx
  · exact ⟨rfl, rfl⟩
  · simp
  · exact ⟨rfl, rfl⟩

/-- An action that does not want the table, or finds it valid, leaves it. -/
theorem action_leaves_table {i : Instr} {s : State} (h : wantsTable i = false ∨ s.tv = true) :
    (actionOf i s).tv = s.tv ∧ (actionOf i s).table = s.table := by
  obtain hwant | htv := h
  · obtain ⟨htable, htv⟩ := action_table i s
    exact ⟨by rw [htv, hwant]; rfl, by rw [htable, hwant]; rfl⟩
  · rw [htv]
    exact actionOf_of_tv i htv

/-- A command that does not want the table, is discarded, faults, or finds the table valid leaves it
(40_table_construction.md R95, R97). -/
theorem exec_leaves_table {s t : State} {i : Instr} (hx : exec i s = .next t)
    (h : wantsTable i = false ∨ s.err = true ∨ t.err = true ∨ s.tv = true) : t.tv = s.tv ∧ t.table = s.table := by
  obtain ⟨-, rfl⟩ | ⟨he, -, rfl⟩ | ⟨-, cause, -, rfl⟩ := exec_cases i s t hx
  · exact ⟨rfl, rfl⟩
  · exact action_leaves_table (s := s.advancePc) (by simpa [he] using h)
  · exact ⟨rfl, rfl⟩

/-- A command that wants the table and completes where `TV = 0` constructs it (40_table_construction.md R95). -/
theorem exec_constructs_table {s t : State} {i : Instr} (hx : exec i s = .next t) (hwant : wantsTable i = true)
    (hs : s.err = false) (ht : t.err = false) (htv : s.tv = false) : t.tv = true ∧ t.table = s.table.construct := by
  obtain ⟨he, -⟩ | ⟨-, -, rfl⟩ | ⟨-, cause, -, rfl⟩ := exec_cases i s t hx
  · rw [hs] at he; cases he
  · obtain ⟨htable', htv'⟩ := action_table i s.advancePc
    rw [if_pos hwant, ensureTable_of_not_tv s.advancePc htv] at htable' htv'
    exact ⟨htv', htable'⟩
  · cases ht

/-- Settles O31: the table is left by every command but those that `exec_constructs_table` names. -/
theorem tableFrame : Obligations.TableFrame := by
  intro s t i hx
  obtain ⟨hparams, hprog⟩ := exec_params_prog hx
  refine ⟨hprog, hparams, fun h => ?_, fun hwant hs ht htv => ?_⟩
  · obtain ⟨htv, htable⟩ := exec_leaves_table hx h
    exact ⟨htv, fun j => by rw [htable]⟩
  · obtain ⟨htv', htable⟩ := exec_constructs_table hx hwant hs ht htv
    exact ⟨htv', fun j => by rw [htable, read_construct]⟩

/-! ## BUILD and TRD -/

section
variable {s : State} (he : s.err = false)
include he

/-- `BUILD` has no check to fail: it runs `ensure_table()` and is counted (40_table_construction.md R96). -/
theorem exec_build : exec .build s = .next s.advancePc.ensureTable.countDone := exec_completes .build s he rfl

/-- `TRD i` has no check to fail: it delivers the entry that `ensure_table()` leaves (40_table_construction.md R98). -/
theorem exec_trd (i : Byte) : exec (.trd i) s = .next (s.advancePc.ensureTable.deliverEntry i).countDone :=
  exec_completes (.trd i) s he rfl

end

theorem tabRead_of_read {s : State} {i : Byte} {v : Word32} (h : s.table.read i = some v) : s.tabRead i = v := by
  simp [State.tabRead, h]

/-- Settles O14: `ensure_table()` leaves a valid table and constructs an absent one. -/
theorem buildConstructsAnAbsentTable : Obligations.BuildConstructsAnAbsentTable := by
  refine ⟨rfl, fun _ hop hfield => decode_reservedField (.inl ⟨.inr hop, hfield⟩), fun s he htv => ?_,
    fun s he htv => ⟨s.table.construct, read_construct s.table, construct_wf s.table, ?_⟩⟩
  · rw [exec_build he, ensureTable_of_tv s.advancePc htv]
    rfl
  · rw [exec_build he, ensureTable_of_not_tv s.advancePc htv]
    rfl

/-- Settles O15: `ensure_table()` leaves the entry where `TV = 1` and constructs it where `TV = 0`; the event delivers
it. -/
theorem tableReadDeliversTheEntry : Obligations.TableReadDeliversTheEntry := by
  refine ⟨fun i => encode_toNat (.trd i), fun _ hop hfield => decode_reservedField (.inr (.inr ⟨hop, hfield⟩)),
    fun s i he => ⟨fun htv v hv => ?_, fun htv => ?_⟩⟩
  · have hread : s.advancePc.tabRead i = v := tabRead_of_read hv
    rw [exec_trd he, ensureTable_of_tv s.advancePc htv, State.deliverEntry, hread]
    rfl
  · have hread : s.advancePc.construct.tabRead i = entry i := tabRead_of_read (read_construct s.table i)
    rw [exec_trd he, ensureTable_of_not_tv s.advancePc htv, State.deliverEntry, hread]
    rfl

end Sys2Proof.Machine
end

section
/-! PROOFS. The arithmetic of the fold (41_checksum_fold.md R116, R119 to R121): folding a byte is eight rounds of the
accumulator with the byte in it, hence linear and a bijection; so a changed byte changes the checksum. -/

namespace Sys2Proof.Machine

/-! ## A byte and a word -/

theorem setWidth_byte_inj {x y : Byte} (h : x.setWidth 32 = y.setWidth 32) : x = y := by
  simpa using congrArg (BitVec.setWidth 8) h

/-- The shift of a fold drops a whole byte. -/
theorem byte_ushiftRight (b : Byte) : b.setWidth 32 >>> 8 = 0#32 := by
  ext k hk
  simp [BitVec.getLsbD_of_ge]

theorem unit_byte_setWidth : ∀ k < 8, (1#8 <<< k).setWidth 32 = 1#32 <<< k := by decide

theorem unit_byte_ne_zero : ∀ k < 8, 1#8 <<< k ≠ 0#8 := by decide

theorem unit_word_from_bit8 : ∀ k < 32, 8 ≤ k →
    (1#32 <<< k).setWidth 8 = 0#8 ∧ ((1#32 <<< k : Word32) >>> 8 : Word32) = 1#32 <<< (k - 8) := by decide

/-! ## The fold of a word -/

theorem fold0_xor (x y : Word32) : fold0 (x ^^^ y) = fold0 x ^^^ fold0 y := by
  simp only [fold0, BitVec.ushiftRight_xor_distrib, BitVec.setWidth_xor, entry_xor]
  ac_rfl

/-- Of a byte only its entry is left. -/
theorem fold0_byte (b : Byte) : fold0 (b.setWidth 32) = entry b := by
  simp [fold0, byte_ushiftRight]

@[simp] theorem fold0_zero : fold0 0#32 = 0#32 := (fold0_byte 0#8).trans entry_zero

/-- Of a word with a clear low byte only the shift is left. -/
theorem fold0_of_low_byte_zero {x : Word32} (h : x.setWidth 8 = 0#8) : fold0 x = x >>> 8 := by
  simp [fold0, h]

/-- Rounds that find only clear bits to shift out are plain shifts (40_table_construction.md R90). -/
theorem crcRound_iterate_of_low_bits_zero (n : Nat) {v : Word32} (h : ∀ k < n, v.getLsbD k = false) :
    crcRound^[n] v = v >>> n := by
  induction n generalizing v with
  | zero => simp
  | succ n ih =>
    rw [Function.iterate_succ_apply, crcRound_of_even (h 0 (by omega)),
      ih fun k hk => by simpa using h (1 + k) (by omega), ← BitVec.shiftRight_add, Nat.add_comm]

/-- A fold is eight rounds: those of the low byte leave its entry, and those of the rest shift it down. -/
theorem fold0_eq_rounds (x : Word32) : fold0 x = crcRound^[8] x := by
  obtain ⟨low, rest, hx, hlow⟩ :
      ∃ (low : Byte) (rest : Word32), x = low.setWidth 32 ^^^ rest ∧ rest.setWidth 8 = 0#8 :=
    ⟨x.setWidth 8, (x.setWidth 8).setWidth 32 ^^^ x, by rw [← BitVec.xor_assoc]; simp, by simp⟩
  have hclear : ∀ k < 8, rest.getLsbD k = false := fun k hk => by
    simpa [hk] using congrArg (BitVec.getLsbD · k) hlow
  calc fold0 x = entry low ^^^ rest >>> 8 := by rw [hx, fold0_xor, fold0_byte, fold0_of_low_byte_zero hlow]
    _ = crcRound^[8] (low.setWidth 32) ^^^ crcRound^[8] rest := by rw [crcRound_iterate_of_low_bits_zero 8 hclear]; rfl
    _ = crcRound^[8] x := by rw [← crcRound_iterate_xor, hx]

/-- The round loses nothing: only 0 has the round 0. -/
theorem crcRound_injective : Function.Injective crcRound := by
  intro x y h
  have hzero : crcRound (x ^^^ y) = 0#32 := by rw [crcRound_xor, h, BitVec.xor_self]
  have hdouble : (x ^^^ y).toNat = 2 * (crcRound (x ^^^ y)).toNat := toNat_of_crcRound_lt (by rw [hzero]; decide)
  rw [← BitVec.xor_eq_zero_iff]
  exact BitVec.eq_of_toNat_eq (by rw [hdouble, hzero]; rfl)

theorem fold0_bijective : Function.Bijective fold0 := by
  rw [← Finite.injective_iff_bijective, funext fold0_eq_rounds]
  exact crcRound_injective.iterate 8

/-! ## The fold of a byte -/

/-- Folding a byte is folding the word with the byte in it. -/
theorem fold_eq_fold0 (crc : Word32) (b : Byte) : fold entry crc b = fold0 (crc ^^^ b.setWidth 32) := by
  have hindex : foldIndex crc b = (crc ^^^ b.setWidth 32).setWidth 8 := by
    have hmask : Config.indexMask.setWidth 8 = BitVec.allOnes 8 := rfl
    rw [foldIndex, BitVec.setWidth_and, hmask, BitVec.and_allOnes]
  rw [fold, fold0, hindex, BitVec.ushiftRight_xor_distrib, byte_ushiftRight, BitVec.xor_zero]

theorem fold_bijective (b : Byte) : Function.Bijective fun crc => fold entry crc b := by
  have hxor : Function.Involutive fun crc : Word32 => crc ^^^ b.setWidth 32 := fun crc => by simp
  simp only [fold_eq_fold0]
  exact fold0_bijective.comp hxor.bijective

theorem fold_byte_injective (crc : Word32) : Function.Injective fun b => fold entry crc b := by
  intro x y h
  simp only [fold_eq_fold0] at h
  exact setWidth_byte_inj ((BitVec.xor_right_inj crc).1 (fold0_bijective.injective h))

theorem fold_xor (a e : Word32) (b : Byte) : fold entry (a ^^^ e) b = fold entry a b ^^^ fold0 e := by
  rw [fold_eq_fold0, fold_eq_fold0, ← fold0_xor]
  congr 1
  ac_rfl

/-! ## The fold of a sequence -/

theorem foldseq_xor (a e : Word32) (d : List Byte) : foldseq (a ^^^ e) d = foldseq a d ^^^ fold0^[d.length] e := by
  induction d generalizing a e with
  | nil => rfl
  | cons b d ih => rw [foldseq, fold_xor, ih]; rfl

theorem foldseq_append (a : Word32) (d e : List Byte) : foldseq a (d ++ e) = foldseq (foldseq a d) e := by
  induction d generalizing a with
  | nil => rfl
  | cons b d ih => exact ih (fold entry a b)

theorem foldseq_injective (d : List Byte) : Function.Injective fun a => foldseq a d := by
  induction d with
  | nil => exact Function.injective_id
  | cons b d ih => exact ih.comp (fold_bijective b).injective

theorem invert_injective : Function.Injective invert := fun _ _ => (BitVec.xor_left_inj _).1

/-! ## The laws and the check value -/

/-- Settles O45, from `fold0` being eight rounds. -/
theorem foldLaws : Obligations.FoldLaws := by
  refine ⟨fold_eq_fold0, fold0_xor, fold0_zero, fold0_bijective, fun k hk => ?_, by decide, fun k h8 h32 => ?_,
    fold_bijective, fold_byte_injective, fold0_eq_rounds, foldseq_xor⟩
  · rw [← unit_byte_setWidth k hk, fold0_byte]
  · obtain ⟨hlow, hshift⟩ := unit_word_from_bit8 k h32 h8
    rw [fold0_of_low_byte_zero hlow, hshift]

/-- Settles O46: up to the changed byte the accumulators agree, the fold of the byte tells them apart, and the folds of
the rest keep them apart. -/
theorem oneChangedByteChangesTheChecksum : Obligations.OneChangedByteChangesTheChecksum := by
  have hbyte : ∀ (p q : List Byte) (x y : Byte), x ≠ y → crc32 (p ++ x :: q) ≠ crc32 (p ++ y :: q) := by
    intro p q x y hne h
    have hseq : foldseq Config.crcInit (p ++ x :: q) = foldseq Config.crcInit (p ++ y :: q) := invert_injective h
    rw [foldseq_append, foldseq_append] at hseq
    exact hne (fold_byte_injective _ (foldseq_injective q hseq))
  refine ⟨hbyte, fun p q x k hk => hbyte p q x _ fun h => unit_byte_ne_zero k hk ?_⟩
  exact (BitVec.xor_right_inj x).1 (by simpa using h.symm)

/-- A row of the table of R119 is one fold of the sequence. -/
theorem FoldsAs.foldseq_cons {b index : Byte} {before t shifted after : Word32}
    (h : FoldsAs b before index t shifted after) (d : List Byte) : foldseq before (b :: d) = foldseq after d := by
  obtain ⟨-, -, -, hfold⟩ := h
  rw [foldseq, hfold]

/-- Settles O47: the rows are folds of concrete words, and the check value is what the nine of them leave, inverted. -/
theorem checkValueFoldsAsTabulated : Obligations.CheckValueFoldsAsTabulated := by
  refine (and_iff_right_of_imp ?_).2 (by unfold FoldsAs; decide)
  rintro ⟨h1, h2, h3, h4, h5, h6, h7, h8, h9⟩
  rw [crc32, Config.crcInit, h1.foldseq_cons, h2.foldseq_cons, h3.foldseq_cons, h4.foldseq_cons, h5.foldseq_cons,
    h6.foldseq_cons, h7.foldseq_cons, h8.foldseq_cons, h9.foldseq_cons]
  rfl

end Sys2Proof.Machine
end

section
/-! PROOFS. What `INIT`, `FOLD` and `FINAL` do (41_checksum_fold.md R111 to R113, R117), by what their checks let
through. -/

namespace Sys2Proof.Machine

/-! ## The two faults of a command that names a context -/

section
variable {i : Instr} {s : State} {c : Ctx} (he : s.err = false) (hi : ctxOperand i = some c)
include he hi

/-- A command that names a context which does not exist takes `BAD_CONTEXT` (60_exceptions.md R164, R170). -/
theorem exec_badContext (hc : s.params.nctx ≤ c.toNat) :
    exec i s = .next { s with pc := s.pc + 1, err := true, ecause := 3#4, ecmd := encode i } :=
  exec_faults i s .badContext he (checkOf_badContext i s c hi hc)

/-- A command that needs an open context and names an idle one takes `SEQUENCE` (60_exceptions.md R165, R170). -/
theorem exec_sequence (hc : c.toNat < s.params.nctx) (hn : needsOpen i = true) (ha : s.actOf c = false) :
    exec i s = .next { s with pc := s.pc + 1, err := true, ecause := 4#4, ecmd := encode i } :=
  exec_faults i s .sequence he (checkOf_sequence i s c hi hc hn ha)

end

/-! ## The commands that complete -/

section
variable {s : State} {c : Ctx} (he : s.err = false) (hc : c.toNat < s.params.nctx)
include he hc

theorem exec_init : exec (.init c) s = .next (s.advancePc.openCtx c).countDone :=
  exec_completes (.init c) s he (checkOf_passes _ s c rfl hc nofun)

theorem exec_fold (ha : s.actOf c = true) (b : Byte) :
    exec (.fold c b) s = .next (s.advancePc.ensureTable.foldByte c b).countDone :=
  exec_completes (.fold c b) s he (checkOf_passes _ s c rfl hc fun _ => ha)

theorem exec_final (ha : s.actOf c = true) {crc : Word32} (hcrc : s.accAt c = some crc) :
    exec (.final c) s = .next (s.advancePc.closeCtx c (invert crc)).countDone := by
  have hacc : s.advancePc.accOf c = crc := accOf_of_accAt hcrc
  rw [exec_completes (.final c) s he (checkOf_passes _ s c rfl hc fun _ => ha), actionOf, hacc]

end

theorem openCtx_actOf (s : State) (c : Ctx) : (s.openCtx c).actOf c = true := writeAct_actOf_same _ c true

theorem openCtx_accAt (s : State) (c : Ctx) : (s.openCtx c).accAt c = some Config.crcInit := writeAcc_accAt_same s c _

/-- The fold of a byte, where the accumulator and the entry it reads hold the values named. -/
theorem foldByte_of_values {s : State} {c : Ctx} {b : Byte} {crc t : Word32} (hcrc : s.accAt c = some crc)
    (ht : s.table.read (foldIndex crc b) = some t) : s.foldByte c b = s.writeAcc c (some ((crc >>> 8) ^^^ t)) := by
  rw [State.foldByte, accOf_of_accAt hcrc, fold, tabRead_of_read ht]

/-- Settles O16: a context that exists is the one check of `INIT`. -/
theorem initOpensItsContext : Obligations.InitOpensItsContext :=
  ⟨fun c => encode_toNat (.init c), fun _ hop hfield => decode_reservedField (.inr (.inl ⟨.inl hop, hfield⟩)),
    fun _ _ he => ⟨exec_init he, exec_badContext he rfl⟩⟩

/-- Settles O17: `ensure_table()` leaves the entry where `TV = 1` and constructs it where `TV = 0`, and leaves the
accumulator. -/
theorem foldUpdatesItsAccumulator : Obligations.FoldUpdatesItsAccumulator := by
  refine ⟨fun c b => encode_toNat (.fold c b), fun s c b he =>
    ⟨fun hc ha crc hcrc => ⟨fun htv t ht => ?_, fun htv => ?_⟩, fun hc => exec_sequence he rfl hc rfl,
      exec_badContext he rfl⟩⟩
  · rw [exec_fold he hc ha, ensureTable_of_tv s.advancePc htv, foldByte_of_values (s := s.advancePc) hcrc ht]
    rfl
  · rw [exec_fold he hc ha, ensureTable_of_not_tv s.advancePc htv,
      foldByte_of_values (s := s.advancePc.construct) hcrc (read_construct s.table _)]
    rfl

/-- Settles O18: an open context that exists passes the checks of `FINAL`. -/
theorem finalDeliversAndCloses : Obligations.FinalDeliversAndCloses :=
  ⟨fun c => encode_toNat (.final c), fun _ hop hfield => decode_reservedField (.inr (.inl ⟨.inr hop, hfield⟩)),
    fun _ _ he => ⟨fun hc ha _ hcrc => exec_final he hc ha hcrc, fun hc => exec_sequence he rfl hc rfl,
      exec_badContext he rfl⟩⟩

/-- Settles O48: `FINAL` finds the context open with all ones, which it delivers inverted. -/
theorem emptySequenceHasChecksumZero : Obligations.EmptySequenceHasChecksumZero := by
  refine ⟨rfl, fun s c he hc => ?_⟩
  exact ⟨_, _, exec_init he hc,
    exec_final (s := (s.advancePc.openCtx c).countDone) he hc (openCtx_actOf _ c) (openCtx_accAt _ c), he, rfl⟩

end Sys2Proof.Machine
end

section
/-! PROOFS. The commands of a pseudo-instruction emit its checksum and close its context (41_checksum_fold.md R116,
42_combined_and_streaming.md R132, R140), whatever commands of other contexts stand between them. -/

namespace Sys2Proof.Machine

/-- A run always ends in a next state (43_system_and_sequencing.md R154). -/
theorem run_next (k : Nat) (s : State) : ∃ t, run k s = .next t := by
  induction k generalizing s with
  | zero => exact ⟨s, rfl⟩
  | succ k ih =>
    obtain ⟨u, hu⟩ := step_next s
    rw [run_succ k s u hu]
    exact ih u

/-! ## Whether a context is left open -/

/-- A command that completes on a context leaves it open, unless it delivers its checksum (10_state.md R30). -/
theorem complete_actOf {i : Instr} {s : State} {c : Ctx} (hc : checkOf i s = none) (hi : ctxOperand i = some c) :
    (actionOf i s).actOf c = !producesEvent i := by
  obtain ⟨rfl | ⟨b, rfl⟩, hact⟩ | ⟨⟨b, rfl⟩, hact⟩ | ⟨rfl | ⟨b, rfl | rfl⟩, hact⟩ := action_actOf_named (s := s) hi
  case inr.inl => rw [hact]; exact (ctx_of_checkOf_none hc hi).2 rfl
  all_goals exact hact

/-- Whether the completed command `w` leaves its context open, which was open or not as `a` says. -/
def openAfter (a : Bool) (w : CmdWord) : Bool :=
  match decode w with
  | .command i => !producesEvent i
  | .illegalOpcode => a
  | .reservedField => a

theorem openAfter_of_decode {w : CmdWord} {i : Instr} (hd : decode w = .command i) (a : Bool) :
    openAfter a w = !producesEvent i := by
  simp only [openAfter, hd]

/-- A run without a fault leaves a context open or closed as the commands of that context alone say. -/
theorem run_actOf (c : Ctx) (ws : List CmdWord) {s t : State} (hws : s.prog.drop s.pc = ws)
    (hx : run ws.length s = .next t) (he : t.err = false) :
    t.actOf c = (ws.filter (namesCtx c)).foldl openAfter (s.actOf c) := by
  induction ws generalizing s with
  | nil => cases hx; rfl
  | cons w ws ih =>
    obtain ⟨i, hd, hc, hrest, hrun⟩ := faultless_run_cons hws hx he
    have hnames := namesCtx_of_decode hd c
    rw [ih hrest hrun, countDone_actOf]
    by_cases hi : ctxOperand i = some c
    · rw [List.filter_cons_of_pos (by simp [hnames, hi]), List.foldl_cons, openAfter_of_decode hd,
        complete_actOf (s := s.advancePc) hc hi]
    · rw [List.filter_cons_of_neg (by simp [hnames, hi]), (action_ctx i s.advancePc c hi).2, advancePc_actOf]

/-! ## Commands that deliver one checksum -/

/-- The commands `is`, on context `c` with the accumulator `a`, deliver the one checksum `v` and leave `c` closed. -/
structure DeliversOne (c : Ctx) (a : Option Word32) (is : List Instr) (v : Word32) : Prop where
  crcs : crcsOf c a (is.map encode) = [{ kind := .crc, id := crcId c, value := v }]
  closes : ∀ wasOpen : Bool, (is.map encode).foldl openAfter wasOpen = false

/-- A command that emits nothing passes its accumulator on to the commands after it. -/
theorem DeliversOne.cons {c : Ctx} {a : Option Word32} {i : Instr} {is : List Instr} {v : Word32}
    (hout : (actionOf i (alone c a)).out = []) (h : DeliversOne c ((actionOf i (alone c a)).accAt c) is v) :
    DeliversOne c a (i :: is) v where
  crcs := by rw [List.map_cons, crcsOf_cons (decode_encode i), hout, List.nil_append, h.crcs]
  closes wasOpen := h.closes (openAfter wasOpen (encode i))

/-- A command that emits a checksum may end them. -/
theorem deliversOne_singleton {c : Ctx} {a : Option Word32} {i : Instr} {v : Word32} (hp : producesEvent i = true)
    (hout : (actionOf i (alone c a)).out = [{ kind := .crc, id := crcId c, value := v }]) : DeliversOne c a [i] v where
  crcs := by rw [List.map_singleton, crcsOf_cons (decode_encode i), hout]; rfl
  closes wasOpen := by simp [openAfter_of_decode (decode_encode i), hp]

theorem alone_tabRead (c : Ctx) (a : Option Word32) : (alone c a).ensureTable.tabRead = entry :=
  ensureTable_tabRead (alone_tableSound c a)

theorem alone_accOf (c : Ctx) (a : Word32) : (alone c (some a)).accOf c = a := accOf_of_accAt (alone_accAt c _)

theorem deliversOne_final (c : Ctx) (a : Word32) : DeliversOne c (some a) [.final c] (invert a) :=
  deliversOne_singleton rfl (by simp [actionOf, State.closeCtx, alone_accOf, alone_out])

theorem deliversOne_foldl (c : Ctx) (a : Word32) (b : Byte) :
    DeliversOne c (some a) [.foldl c b] (invert (foldseq a [b])) :=
  deliversOne_singleton rfl
    (by simp [actionOf, State.foldClose, State.closeCtx, alone_accOf, alone_out, alone_tabRead, foldseq])

theorem deliversOne_foldfl (c : Ctx) (a : Option Word32) (b : Byte) : DeliversOne c a [.foldfl c b] (crc32 [b]) :=
  deliversOne_singleton rfl
    (by simp [actionOf, State.openFoldClose, State.closeCtx, alone_out, alone_tabRead, crc32, foldseq])

theorem DeliversOne.init {c : Ctx} {is : List Instr} {v : Word32} (a : Option Word32)
    (h : DeliversOne c (some Config.crcInit) is v) : DeliversOne c a (.init c :: is) v :=
  .cons rfl (by simpa [actionOf, State.openCtx] using h)

theorem DeliversOne.foldf {c : Ctx} {b : Byte} {is : List Instr} {v : Word32} (a : Option Word32)
    (h : DeliversOne c (some (fold entry Config.crcInit b)) is v) : DeliversOne c a (.foldf c b :: is) v :=
  .cons (by simp [actionOf, State.openFold, alone_out])
    (by simpa [actionOf, State.openFold, alone_tabRead] using h)

theorem DeliversOne.fold {c : Ctx} {a : Word32} {b : Byte} {is : List Instr} {v : Word32}
    (h : DeliversOne c (some (fold entry a b)) is v) : DeliversOne c (some a) (.fold c b :: is) v :=
  .cons (by simp [actionOf, State.foldByte, alone_out])
    (by simpa [actionOf, State.foldByte, alone_tabRead, alone_accOf] using h)

/-! ## The two spellings of a message -/

/-- The bytes of the plain spelling, then `FINAL` (30_encoding.md R86). -/
theorem deliversOne_folds_final (c : Ctx) (a : Word32) (d : List Byte) :
    DeliversOne c (some a) (d.map (.fold c) ++ [.final c]) (invert (foldseq a d)) := by
  induction d generalizing a with
  | nil => exact deliversOne_final c a
  | cons b d ih => exact .fold (ih (fold entry a b))

/-- The bytes after the first in the stream spelling (30_encoding.md R86). -/
theorem deliversOne_streamTail (c : Ctx) (a : Word32) (b : Byte) (d : List Byte) :
    DeliversOne c (some a) (streamTail c (b :: d)) (invert (foldseq a (b :: d))) := by
  induction d generalizing a b with
  | nil => exact deliversOne_foldl c a b
  | cons b' d ih => exact .fold (ih (fold entry a b) b')

theorem deliversOne_streamForm {c : Ctx} {d : List Byte} {is : List Instr} (h : streamForm c d = some is)
    (a : Option Word32) : DeliversOne c a is (crc32 d) := by
  match d, h with
  | [b], rfl => exact deliversOne_foldfl c a b
  | b :: b' :: d, rfl => exact .foldf a (deliversOne_streamTail c _ b' d)

/-- The commands of a pseudo-instruction deliver the checksum of its bytes, whatever the accumulator held. -/
theorem deliversOne_expand {c : Ctx} {d e : List Byte} {p : Pseudo} {is : List Instr}
    (hp : p = .checksum c (d ++ e) ∨ p = .checksum2 c d e ∨ p = .checksums c (d ++ e) ∨ p = .checksum2s c d e)
    (h : p.expand = some is) (a : Option Word32) : DeliversOne c a is (crc32 (d ++ e)) := by
  have hplain : DeliversOne c a (.init c :: ((d ++ e).map (.fold c) ++ [.final c])) (crc32 (d ++ e)) :=
    .init a (deliversOne_folds_final c Config.crcInit (d ++ e))
  obtain rfl | rfl | rfl | rfl := hp
  · cases h; exact hplain
  · cases h; rwa [List.map_append] at hplain
  · exact deliversOne_streamForm h a
  · exact deliversOne_streamForm h a

/-- Settles O56: the words of context `c` alone decide its checksums and whether it is left open. -/
theorem checksumSequencesEmitTheChecksum : Obligations.ChecksumSequencesEmitTheChecksum := by
  intro s c d e p is ws hp hexpand hinv _ _ hws hsame
  obtain ⟨t, hx⟩ := run_next ws.length s
  obtain ⟨hcrcs, hcloses⟩ := deliversOne_expand hp hexpand (s.accAt c)
  refine ⟨t, hx, fun he => ⟨?_, ?_⟩⟩
  · rw [run_actOf c ws hws hx he, hsame, hcloses]
  · obtain ⟨new, hout, hnew⟩ := run_delivers_crcsOf c ws hinv.tableSound hws hx he
    exact ⟨new, hout, by rw [hnew, hsame, hcrcs]; rfl⟩

end Sys2Proof.Machine
end

section
/-! PROOFS. Two segments and two ports (42_combined_and_streaming.md R132, R133, R139), and the stream forms of the fold
(R135 to R137, R140): what each does, and that its parts leave the same state but for the counters. -/

namespace Sys2Proof.Machine

/-! ## Segments and ports -/

/-- Settles O49: bytes are folded one after another, so a list of commands splits where its bytes do. -/
theorem twoSegmentsAreTheirConcatenation : Obligations.TwoSegmentsAreTheirConcatenation := by
  have hexpand : ∀ (c : Ctx) (d e : List Byte),
      (Pseudo.checksum2 c d e).expand = (Pseudo.checksum c (d ++ e)).expand :=
    fun c d e => by rw [Pseudo.expand, Pseudo.expand, List.map_append]
  exact ⟨fun a d e => (foldseq_append a d e).symm, hexpand,
    fun c d => ⟨by rw [hexpand, List.append_nil], hexpand c [] d⟩⟩

/-- A beat offered alone to an engine with a stream port is taken (30_encoding.md R84). -/
theorem acceptOffer_beat {s : State} (h : s.params.hasStream = true) (t : Beat) :
    s.acceptOffer { cmd := none, beat := some t } = (s.acceptWord t.word, { cmd := none, beat := none }) := by
  simp [State.acceptOffer, State.acceptBeat, h]

/-- A word is taken first, and a beat offered with it stays offered (42_combined_and_streaming.md R139). -/
theorem acceptOffer_word (s : State) (w : CmdWord) (t : Option Beat) :
    s.acceptOffer { cmd := some w, beat := t } = (s.acceptWord w, { cmd := none, beat := t }) := rfl

theorem acceptWord_acceptWord (s : State) (w w' : CmdWord) :
    (s.acceptWord w).acceptWord w' = { s with prog := s.prog ++ [w, w'] } := by
  simp [State.acceptWord]

/-- Settles O12: the word is taken first, and what is then offered is the beat alone. -/
theorem commandPortIsTakenFirst : Obligations.CommandPortIsTakenFirst := fun s w t h =>
  ⟨rfl, by rw [acceptOffer_word, acceptOffer_beat (s := s.acceptWord w) h, acceptWord_acceptWord]⟩

/-! ## The counters -/

/-- A completed command with no effect but the counters': what a sequence of commands counts beyond its fused form. -/
def State.countOne (s : State) : State := s.advancePc.countDone

theorem countOne_countOne (s : State) :
    s.countOne.countOne = { s with pc := s.pc + 2, cmdcnt := s.cmdcnt + 2#32 } := by
  simp [State.countOne, State.advancePc, State.countDone, BitVec.add_assoc]

@[simp] theorem countOne_params (s : State) : s.countOne.params = s.params := rfl
@[simp] theorem countOne_err (s : State) : s.countOne.err = s.err := rfl
@[simp] theorem countOne_accAt (s : State) (c : Ctx) : s.countOne.accAt c = s.accAt c := rfl
@[simp] theorem countOne_actOf (s : State) (c : Ctx) : s.countOne.actOf c = s.actOf c := rfl

theorem countOne_ensureTable (s : State) : s.countOne.ensureTable = s.ensureTable.countOne := by
  cases h : s.tv
  · rw [ensureTable_of_not_tv s h, ensureTable_of_not_tv s.countOne h]
    rfl
  · rw [ensureTable_of_tv s h, ensureTable_of_tv s.countOne h]

/-! ## The data actions of the stream forms, by those of their parts -/

section
variable (s : State) (c : Ctx)

theorem openCtx_ensureTable : (s.openCtx c).ensureTable = s.ensureTable.openCtx c :=
  writeCtx_ensureTable s c (some Config.crcInit) true

theorem writeAcc_openFold (v : Option Word32) (b : Byte) : (s.writeAcc c v).openFold c b = s.openFold c b := by
  simp only [State.openFold, State.writeAcc, Vector.set_set]
  rfl

/-- The data actions of `INIT` and `FOLD` are that of `FOLDF` (42_combined_and_streaming.md R135). -/
theorem openCtx_foldByte (b : Byte) : (s.openCtx c).foldByte c b = s.openFold c b := by
  rw [State.foldByte, accOf_of_accAt (openCtx_accAt s c)]
  exact writeAcc_openFold s c (some Config.crcInit) b

theorem foldByte_accAt (b : Byte) : (s.foldByte c b).accAt c = some (fold s.tabRead (s.accOf c) b) :=
  writeAcc_accAt_same s c _

theorem openFold_accAt (b : Byte) : (s.openFold c b).accAt c = some (fold s.tabRead Config.crcInit b) :=
  writeAcc_accAt_same s c _

theorem openFold_actOf (b : Byte) : (s.openFold c b).actOf c = true := writeAct_actOf_same _ c true

/-- Closing a context overwrites what was folded there (42_combined_and_streaming.md R136). -/
theorem foldByte_closeCtx (b : Byte) (v : Word32) : (s.foldByte c b).closeCtx c v = s.closeCtx c v := by
  simp [State.closeCtx, State.foldByte, State.emit, State.writeAcc, State.writeAct]

/-- Closing a context overwrites what was opened there (42_combined_and_streaming.md R137). -/
theorem openFold_closeCtx (b : Byte) (v : Word32) : (s.openFold c b).closeCtx c v = s.closeCtx c v := by
  simp [State.closeCtx, State.openFold, State.emit, State.writeAcc, State.writeAct]

end

theorem countDone_closeCtx (s : State) (c : Ctx) (v : Word32) :
    s.countDone.closeCtx c v = (s.closeCtx c v).countDone := rfl

theorem countOne_closeCtx (s : State) (c : Ctx) (v : Word32) :
    s.countOne.closeCtx c v = (s.closeCtx c v).countOne := rfl

/-! ## The stream forms and the sequences they stand for -/

section
variable {s : State} {c : Ctx} (he : s.err = false) (hc : c.toNat < s.params.nctx) (b : Byte)
include he hc

theorem exec_foldf : exec (.foldf c b) s = .next (s.advancePc.ensureTable.openFold c b).countDone :=
  exec_completes (.foldf c b) s he (checkOf_passes _ s c rfl hc nofun)

theorem exec_foldl (ha : s.actOf c = true) :
    exec (.foldl c b) s = .next (s.advancePc.ensureTable.foldClose c b).countDone :=
  exec_completes (.foldl c b) s he (checkOf_passes _ s c rfl hc fun _ => ha)

theorem exec_foldfl : exec (.foldfl c b) s = .next (s.advancePc.ensureTable.openFoldClose c b).countDone :=
  exec_completes (.foldfl c b) s he (checkOf_passes _ s c rfl hc nofun)

/-- `FOLD` after `INIT` leaves the state of `FOLDF`, with one more command counted (R135). -/
theorem exec_fold_after_init : exec (.fold c b) (s.advancePc.openCtx c).countDone =
    .next (s.advancePc.ensureTable.openFold c b).countDone.countOne := by
  have hopen : (s.advancePc.openCtx c).countDone.advancePc.ensureTable =
      (s.advancePc.ensureTable.openCtx c).countOne := by
    rw [← openCtx_ensureTable, ← countOne_ensureTable]
    rfl
  rw [exec_fold (s := (s.advancePc.openCtx c).countDone) he hc (openCtx_actOf _ c) b, hopen,
    ← openCtx_foldByte s.advancePc.ensureTable]
  rfl

/-- `FINAL` after commands of the sequence, which have left the engine's parameters and no fault. -/
theorem exec_final_in_sequence {u : State} {crc : Word32} (herr : u.err = s.err) (hparams : u.params = s.params)
    (ha : u.actOf c = true) (hcrc : u.accAt c = some crc) :
    exec (.final c) u = .next (u.closeCtx c (invert crc)).countOne :=
  exec_final (herr.trans he) (by rwa [hparams]) ha hcrc

/-- `FINAL` after `FOLD` leaves the state of `FOLDL`, with one more command counted (R136). -/
theorem exec_final_after_fold (ha : s.actOf c = true) :
    exec (.final c) (s.advancePc.ensureTable.foldByte c b).countDone =
      .next (s.advancePc.ensureTable.foldClose c b).countDone.countOne := by
  have hact : (s.advancePc.ensureTable.foldByte c b).actOf c = true := (ensureTable_actOf s.advancePc c).trans ha
  rw [exec_final_in_sequence he hc (u := (s.advancePc.ensureTable.foldByte c b).countDone)
    (by simp [State.foldByte]) (by simp [State.foldByte]) hact
    (by rw [countDone_accAt, foldByte_accAt]), countDone_closeCtx, foldByte_closeCtx, State.foldClose]

/-- `FINAL` after `INIT` and `FOLD` leaves the state of `FOLDFL`, with two more commands counted (R137). -/
theorem exec_final_after_init_fold :
    exec (.final c) (s.advancePc.ensureTable.openFold c b).countDone.countOne =
      .next (s.advancePc.ensureTable.openFoldClose c b).countDone.countOne.countOne := by
  rw [exec_final_in_sequence he hc (u := (s.advancePc.ensureTable.openFold c b).countDone.countOne)
    (by simp [State.openFold]) (by simp [State.openFold]) (by simp [openFold_actOf])
    (by rw [countOne_accAt, countDone_accAt, openFold_accAt]), countOne_closeCtx, countDone_closeCtx, openFold_closeCtx,
    State.openFoldClose]

end

/-! ## The values of the stream forms -/

/-- The index of the first byte of a message (42_combined_and_streaming.md R135). -/
theorem foldIndex_crcInit (b : Byte) : foldIndex Config.crcInit b = 0xFF#8 ^^^ b := by
  have hmask : Config.indexMask.setWidth 8 = BitVec.allOnes 8 := rfl
  have hinit : Config.crcInit.setWidth 8 = 0xFF#8 := rfl
  rw [foldIndex, BitVec.setWidth_and, hmask, BitVec.and_allOnes, BitVec.setWidth_xor, hinit]
  simp

theorem fold_crcInit (t : Byte → Word32) (b : Byte) : fold t Config.crcInit b = 0x00FFFFFF#32 ^^^ t (0xFF#8 ^^^ b) := by
  rw [fold, foldIndex_crcInit]
  rfl

theorem invert_fold_crcInit (t : Byte → Word32) (b : Byte) :
    invert (fold t Config.crcInit b) = 0xFF000000#32 ^^^ t (0xFF#8 ^^^ b) := by
  have hmask : (0x00FFFFFF#32 ^^^ Config.crcXorOut : Word32) = 0xFF000000#32 := rfl
  rw [fold_crcInit, invert, BitVec.xor_assoc, BitVec.xor_comm (t _), ← BitVec.xor_assoc, hmask]

section
variable {s : State} {c : Ctx} {b : Byte} {t : Word32}

theorem openFold_of_entry (ht : s.table.read (0xFF#8 ^^^ b) = some t) :
    s.openFold c b = (s.writeAcc c (some (0x00FFFFFF#32 ^^^ t))).writeAct c true := by
  rw [State.openFold, fold_crcInit, tabRead_of_read ht]

theorem openFoldClose_of_entry (ht : s.table.read (0xFF#8 ^^^ b) = some t) :
    s.openFoldClose c b = s.closeCtx c (0xFF000000#32 ^^^ t) := by
  rw [State.openFoldClose, invert_fold_crcInit, tabRead_of_read ht]

theorem foldClose_of_values {crc : Word32} (hcrc : s.accAt c = some crc)
    (ht : s.table.read (foldIndex crc b) = some t) : s.foldClose c b = s.closeCtx c (invert ((crc >>> 8) ^^^ t)) := by
  rw [State.foldClose, accOf_of_accAt hcrc, fold, tabRead_of_read ht]

end

/-! ## What the forms do, and their parts -/

/-- Settles O19: `FOLDF` folds onto all ones, and its parts leave its state. -/
theorem foldFirstOpensAndFolds : Obligations.FoldFirstOpensAndFolds := by
  refine ⟨fun c b => encode_toNat (.foldf c b), fun s c b he => ⟨fun hc => ⟨fun htv t ht => ?_, fun htv => ?_,
    _, _, exec_foldf he hc b, exec_init he hc, exec_fold_after_init he hc b⟩, exec_badContext he rfl⟩⟩
  · rw [exec_foldf he hc, ensureTable_of_tv s.advancePc htv, openFold_of_entry (s := s.advancePc) ht]
    rfl
  · rw [exec_foldf he hc, ensureTable_of_not_tv s.advancePc htv,
      openFold_of_entry (s := s.advancePc.construct) (read_construct s.table _)]
    rfl

/-- Settles O20: `FOLDL` delivers the inverted fold, and its parts leave its state. -/
theorem foldLastDeliversAndCloses : Obligations.FoldLastDeliversAndCloses := by
  refine ⟨fun c b => encode_toNat (.foldl c b), fun s c b he => ⟨fun hc ha crc hcrc => ⟨?_, ?_, _, _,
    exec_foldl he hc b ha, exec_fold he hc ha b, exec_final_after_fold he hc b ha⟩,
    fun hc => exec_sequence he rfl hc rfl, exec_badContext he rfl⟩⟩
  · rintro htv t _ ht rfl
    rw [exec_foldl he hc b ha, ensureTable_of_tv s.advancePc htv, foldClose_of_values (s := s.advancePc) hcrc ht]
    rfl
  · rintro htv _ rfl
    rw [exec_foldl he hc b ha, ensureTable_of_not_tv s.advancePc htv,
      foldClose_of_values (s := s.advancePc.construct) hcrc (read_construct s.table _)]
    rfl

/-- Settles O21: `FOLDFL` delivers the inverted fold onto all ones, and its parts leave its state. -/
theorem foldOnlyDeliversOneByteChecksum : Obligations.FoldOnlyDeliversOneByteChecksum := by
  refine ⟨fun c b => encode_toNat (.foldfl c b), fun b => (invert_fold_crcInit entry b).symm, fun s c b he =>
    ⟨fun hc => ⟨?_, ?_, _, _, _, exec_foldfl he hc b, exec_init he hc, exec_fold_after_init he hc b, ?_⟩,
      exec_badContext he rfl⟩⟩
  · rintro htv t _ ht rfl
    rw [exec_foldfl he hc, ensureTable_of_tv s.advancePc htv, openFoldClose_of_entry (s := s.advancePc) ht]
    rfl
  · rintro htv _ rfl
    rw [exec_foldfl he hc, ensureTable_of_not_tv s.advancePc htv,
      openFoldClose_of_entry (s := s.advancePc.construct) (read_construct s.table _)]
    rfl
  · rw [exec_final_after_init_fold he hc, countOne_countOne]

/-! ## The fused-form law -/

/-- While `ERR = 1` a command is discarded (60_exceptions.md R171). -/
theorem exec_of_err (i : Instr) {s : State} (h : s.err = true) : exec i s = .next s.advancePc := by
  rw [exec_eq_runCommand, runCommand_err _ _ s h]

/-- The law compares nothing that a command without effect changes (42_combined_and_streaming.md R140). -/
theorem agreesFused_countOne (t : State) : AgreesFused t t.countOne := by constructor <;> rfl

theorem AgreesFused.countOne {s t : State} (h : AgreesFused s t) : AgreesFused s t.countOne := { h with }

/-- The same fault, recording another word, and a word discarded after it (60_exceptions.md R171). -/
theorem agreesFused_trap (s : State) (cause : Cause) (w w' : CmdWord) :
    AgreesFused (s.trap cause w) (s.trap cause w').advancePc := by constructor <;> rfl

/-- `FOLDL` agrees with `FOLD` then `FINAL`, on an open context and on an idle one (R140). -/
theorem foldl_agrees_with_fold_final {s : State} {c : Ctx} (he : s.err = false) (hc : c.toNat < s.params.nctx)
    (b : Byte) :
    ∃ t u v, exec (.foldl c b) s = .next t ∧ exec (.fold c b) s = .next u ∧ exec (.final c) u = .next v ∧
      AgreesFused t v ∧ v.pc = t.pc + 1 ∧
      (t.err = false → v.cmdcnt = t.cmdcnt + 1#32) ∧
      (t.err = true → v.cmdcnt = t.cmdcnt ∧ t.ecause = 4#4 ∧ t.ecmd = encode (.foldl c b) ∧
        v.ecmd = encode (.fold c b)) := by
  cases ha : s.actOf c
  · have hdiscard : exec (.final c) (s.advancePc.trap .sequence (encode (.fold c b))) = _ := exec_of_err (.final c) rfl
    exact ⟨_, _, _, exec_sequence he rfl hc rfl ha, exec_sequence he rfl hc rfl ha, hdiscard,
      agreesFused_trap s.advancePc .sequence _ _, rfl, nofun, fun _ => ⟨rfl, rfl, rfl, rfl⟩⟩
  · have hdone : (s.advancePc.ensureTable.foldClose c b).err = false :=
      (actionOf_err (.foldl c b) s.advancePc).trans he
    exact ⟨_, _, _, exec_foldl he hc b ha, exec_fold he hc ha b, exec_final_after_fold he hc b ha,
      agreesFused_countOne _, rfl, fun _ => rfl, fun herr => absurd (hdone.symm.trans herr) nofun⟩

/-- Settles O33: the sequences leave the states of their fused forms, but for the counters. -/
theorem fusedFormsAgreeWithTheirParts : Obligations.FusedFormsAgreeWithTheirParts := fun _ _ b he hc =>
  ⟨⟨_, _, _, exec_foldf he hc b, exec_init he hc, exec_fold_after_init he hc b, agreesFused_countOne _, rfl, rfl⟩,
    foldl_agrees_with_fold_final he hc b,
    ⟨_, _, _, _, exec_foldfl he hc b, exec_init he hc, exec_fold_after_init he hc b, exec_final_after_init_fold he hc b,
      (agreesFused_countOne _).countOne, rfl, BitVec.add_assoc _ _ _⟩⟩

end Sys2Proof.Machine
end

section
/-! PROOFS. The step function (43_system_and_sequencing.md R150, R154, R155): what it runs, that it is total, and the
order of its checks. -/

namespace Sys2Proof.Machine

/-! ## What a step runs -/

/-- A word that decodes to a command is executed by that command's meaning (43_system_and_sequencing.md R154). -/
theorem step_command {s : State} {w : CmdWord} {i : Instr} (hw : s.nextWord = some w) (hd : decode w = .command i) :
    step s = exec i s := by
  simp [step, hw, stepWord, hd]

theorem step_idle {s : State} (hw : s.nextWord = none) : step s = .next s := by
  simp [step, hw]

/-- Settles O1: `step` and the meaning it calls differ in nothing. -/
theorem stepRunsDecodedCommand : Obligations.StepRunsDecodedCommand := fun _ _ _ => step_command

/-- Settles O2: `nextWord` is the word of `prog` at `pc`, and there is none from the end of `prog` on. -/
theorem stepIdlesWithoutCommand : Obligations.StepIdlesWithoutCommand := fun _ =>
  ⟨List.getElem?_eq_none_iff, step_idle⟩

/-- Settles O3: every step answers a next state, which has the events of the state before or one more. -/
theorem stepIsTotalWithAtMostOneEvent : Obligations.StepIsTotalWithAtMostOneEvent := fun s => by
  obtain ⟨t, hx⟩ := step_next s
  obtain ⟨hout, -⟩ | ⟨⟨e, hout⟩, -⟩ := step_out hx
  · exact ⟨t, [], hx, by simpa using hout, Nat.zero_le 1⟩
  · exact ⟨t, [e], hx, hout, le_rfl⟩

/-! ## The order of the checks -/

/-- The fault that the word `w` raises, by the first check that fails: decoding, the context, the open computation
(60_exceptions.md R168). -/
def causeOf (w : CmdWord) (s : State) : Option Cause :=
  match decode w with
  | .illegalOpcode => some .illegalOpcode
  | .reservedField => some .reservedField
  | .command i => checkOf i s

section
variable {s : State} {w : CmdWord} (he : s.err = false) (hw : s.nextWord = some w)
include he hw

/-- The first check that fails is the fault of the step, and its only effect besides `pc`. -/
theorem step_of_causeOf_some {cause : Cause} (h : causeOf w s = some cause) :
    step s = .next (s.advancePc.trap cause w) := by
  unfold causeOf at h
  cases hd : decode w <;> rw [hd] at h
  case illegalOpcode => obtain rfl := Option.some.inj h; exact step_illegalOpcode he hw hd
  case reservedField => obtain rfl := Option.some.inj h; exact step_reservedField he hw hd
  case command i => rw [step_command hw hd, exec_faults i s cause he h, encode_of_decode hd]

/-- A word that passes every check is a command, and completes. -/
theorem step_of_causeOf_none (h : causeOf w s = none) :
    ∃ i, decode w = .command i ∧ step s = .next (actionOf i s.advancePc).countDone := by
  unfold causeOf at h
  cases hd : decode w <;> rw [hd] at h
  case illegalOpcode => cases h
  case reservedField => cases h
  case command i => exact ⟨i, rfl, (step_command hw hd).trans (exec_completes i s he h)⟩

/-- The fault registers of a step that began without a fault tell which check failed, if any. -/
theorem step_records_causeOf {t : State} (hcause : s.ecause = 0#4) (hx : step s = .next t) :
    t.ecause = (causeOf w s).elim 0#4 Cause.code ∧ (t.err = true ↔ t.ecause ≠ 0#4) := by
  cases h : causeOf w s with
  | none =>
    obtain ⟨i, -, hstep⟩ := step_of_causeOf_none he hw h
    obtain rfl := Host.Outcome.next.inj (hx.symm.trans hstep)
    simp [he, hcause]
  | some cause =>
    obtain rfl := Host.Outcome.next.inj (hx.symm.trans (step_of_causeOf_some he hw h))
    simp [cause_code_ne_zero]

end

/-- Settles O5: the chain of the statement is the code of `causeOf`. -/
theorem checksAreMadeInOrder : Obligations.ChecksAreMadeInOrder := fun s t w he hcause hw hx => by
  obtain ⟨hrecorded, herr⟩ := step_records_causeOf he hw hcause hx
  refine ⟨hrecorded.trans ?_, herr⟩
  unfold causeOf
  cases decode w with
  | illegalOpcode => rfl
  | reservedField => rfl
  | command i =>
    cases hi : ctxOperand i with
    | none => simp [checkOf, hi]
    | some c =>
      simp only [checkOf_some i s c hi, hi]
      split_ifs <;> rfl

/-! ## NOP -/

/-- `NOP` has no check to fail and no action: it is counted (43_system_and_sequencing.md R150). -/
theorem exec_nop {s : State} (he : s.err = false) : exec .nop s = .next s.countOne := exec_completes .nop s he rfl

/-- Settles O13: the one word with `op` 0 and zero fields is `NOP`, and `countOne` is the two counters. -/
theorem nopCountsAndDoesNothing : Obligations.NopCountsAndDoesNothing := by
  refine ⟨rfl, fun w hop hne => decode_reservedField (.inl ⟨.inl (by omega), ?_⟩), fun s he => exec_nop he,
    fun s he hcount => ?_⟩
  · have hw : w.toNat ≠ 0 := fun h => hne (BitVec.eq_of_toNat_eq h)
    omega
  · rw [exec_nop he, State.countOne, State.countDone, advancePc_cmdcnt, hcount]
    rfl

end Sys2Proof.Machine
end

section
/-! PROOFS. The faults (60_exceptions.md R161, R164 to R166, R170, R171): which commands raise one, what trap entry
writes, and what the fault registers say from then on. -/

namespace Sys2Proof.Machine

/-! ## No data faults -/

/-- A command is well formed when the context it names, if any, exists (30_encoding.md R73). -/
theorem wellFormed_eq_all_hasCtx (p : Params) (i : Instr) : i.wellFormed p = (ctxOperand i).all p.hasCtx := by
  cases i <;> rfl

/-- The checks of a command look at its context only: that it exists and, where needed, is open. -/
theorem checkOf_of_wellFormed {s : State} {i : Instr} (hwf : i.wellFormed s.params = true)
    (hopen : needsOpen i = true → ∀ c, ctxOperand i = some c → s.actOf c = true) : checkOf i s = none := by
  rw [wellFormed_eq_all_hasCtx] at hwf
  cases hi : ctxOperand i with
  | none => simp [checkOf, hi]
  | some c =>
    rw [hi] at hwf
    exact checkOf_passes i s c hi (of_decide_eq_true hwf) fun hn => hopen hn c hi

/-- Settles O22: a command that passes its checks completes, and no action writes `ERR`, `pc` or `CMDCNT`. -/
theorem noDataValueFaults : Obligations.NoDataValueFaults := fun s i he hwf hopen =>
  ⟨_, exec_completes i s he (checkOf_of_wellFormed hwf hopen), by simp [he]⟩

/-! ## Which check failed -/

/-- The check of the command `i` that fails in `s` is the one with this cause (60_exceptions.md R164, R165). -/
inductive CheckFails (i : Instr) (s : State) : Cause → Prop
  | badContext (c : Ctx) (hi : ctxOperand i = some c) (hc : s.params.hasCtx c = false) : CheckFails i s .badContext
  | sequence (c : Ctx) (hi : ctxOperand i = some c) (hc : s.params.hasCtx c = true) (hn : needsOpen i = true)
    (ha : s.actOf c = false) : CheckFails i s .sequence

theorem checkFails_of_checkOf {i : Instr} {s : State} {cause : Cause} (h : checkOf i s = some cause) :
    CheckFails i s cause := by
  unfold checkOf at h
  split at h
  · cases h
  next c hi =>
    split at h
    next hc =>
      split at h
      next hidle =>
        obtain rfl := Option.some.inj h
        obtain ⟨hn, ha⟩ := Bool.and_eq_true_iff.1 hidle
        exact .sequence c hi hc hn (by simpa using ha)
      · cases h
    next hc =>
      obtain rfl := Option.some.inj h
      exact .badContext c hi (by simpa using hc)

/-- A word raises a fault because it is no command, or because a check of its command fails. -/
theorem causeOf_cases {w : CmdWord} {s : State} {cause : Cause} (h : causeOf w s = some cause) :
    (cause = .illegalOpcode ∧ decode w = .illegalOpcode) ∨ (cause = .reservedField ∧ decode w = .reservedField) ∨
    ∃ i, decode w = .command i ∧ CheckFails i s cause := by
  unfold causeOf at h
  split at h
  next hd => exact .inl ⟨(Option.some.inj h).symm, hd⟩
  next hd => exact .inr (.inl ⟨(Option.some.inj h).symm, hd⟩)
  next i hd => exact .inr (.inr ⟨i, hd, checkFails_of_checkOf h⟩)

theorem cause_code_injective : Function.Injective Cause.code := by
  intro a b
  cases a <;> cases b <;> decide

/-- `SEQUENCE` is the fault of a command that needs an open computation (60_exceptions.md R165). -/
theorem checkOf_ne_sequence {i : Instr} {s : State} (hn : needsOpen i = false) : checkOf i s ≠ some .sequence := by
  intro h
  cases checkFails_of_checkOf h with
  | sequence _ _ _ hopen => rw [hn] at hopen; cases hopen

/-- With sixteen contexts every `ctx` field names one that exists (60_exceptions.md R164). -/
theorem hasCtx_of_nctx {p : Params} (h : p.nctx = 16) (c : Ctx) : p.hasCtx c = true :=
  decide_eq_true (h ▸ c.isLt)

theorem causeOf_ne_badContext {w : CmdWord} {s : State} (h : s.params.nctx = 16) :
    causeOf w s ≠ some .badContext := by
  intro hcause
  obtain ⟨hne, -⟩ | ⟨hne, -⟩ | ⟨i, -, hfail⟩ := causeOf_cases hcause
  · cases hne
  · cases hne
  · cases hfail with
    | badContext c _ hc => rw [hasCtx_of_nctx h c] at hc; cases hc

/-! ## Trap entry -/

/-- A step that changes `ERR` is the trap entry of the word it took, for the first check that failed
(60_exceptions.md R168, R170). -/
theorem step_changes_err {s t : State} (hx : step s = .next t) (h : t.err ≠ s.err) :
    ∃ w cause, s.nextWord = some w ∧ causeOf w s = some cause ∧ t = s.advancePc.trap cause w := by
  cases he : s.err with
  | true => exact absurd ((step_keeps_err hx he).trans he.symm) h
  | false =>
    obtain ⟨-, hw⟩ := step_sets_err hx he (by simpa [he] using h)
    cases hcause : causeOf t.ecmd s with
    | none =>
      obtain ⟨i, -, hdone⟩ := step_of_causeOf_none he hw hcause
      obtain rfl := Host.Outcome.next.inj (hx.symm.trans hdone)
      simp at h
    | some cause =>
      exact ⟨_, cause, hw, hcause, Host.Outcome.next.inj (hx.symm.trans (step_of_causeOf_some he hw hcause))⟩

/-- A step that changes `ECAUSE` records the first check that failed. -/
theorem step_changes_ecause {s t : State} (hx : step s = .next t) (h : t.ecause ≠ s.ecause) :
    ∃ w cause, causeOf w s = some cause ∧ t.ecause = cause.code := by
  obtain ⟨w, cause, -, hcause, rfl⟩ := step_changes_err hx fun he => h (step_keeps_fault_registers hx he).1
  exact ⟨w, cause, hcause, rfl⟩

/-- A command that changes `ECAUSE` records which of its checks failed. -/
theorem exec_changes_ecause {i : Instr} {s t : State} (hx : exec i s = .next t) (h : t.ecause ≠ s.ecause) :
    ∃ cause, checkOf i s = some cause ∧ t.ecause = cause.code := by
  obtain ⟨-, rfl⟩ | ⟨-, -, rfl⟩ | ⟨-, cause, hcheck, rfl⟩ := exec_cases i s t hx
  · exact absurd rfl h
  · simp at h
  · exact ⟨cause, hcheck, rfl⟩

/-- Settles O25: the state of trap entry, and the codes of the causes are 1 to 4. -/
theorem faultsArePrecise : Obligations.FaultsArePrecise := fun s t he hx he' => by
  obtain ⟨w, cause, hw, -, rfl⟩ := step_changes_err hx (by simp [he, he'])
  obtain ⟨hlow, hhigh⟩ := cause_code_range cause
  exact ⟨rfl, w, cause.code, hw, hlow, hhigh, rfl⟩

/-- Settles O23: no word has the cause 3 where all sixteen contexts exist, and a reserved field is found in decoding. -/
theorem missingContextFaults : Obligations.MissingContextFaults := by
  refine ⟨fun _ _ _ => exec_badContext, fun s t hn hne hx h3 => ?_, fun s t w he hw hd hx => ?_,
    decode_reservedField (.inr (.inl (by decide)))⟩
  · obtain ⟨w, cause, hcause, hcode⟩ := step_changes_ecause hx fun h => hne (h.symm.trans h3)
    obtain rfl : cause = .badContext := cause_code_injective (hcode.symm.trans h3)
    exact causeOf_ne_badContext hn hcause
  · obtain rfl := Host.Outcome.next.inj (hx.symm.trans (step_reservedField he hw hd))
    rfl

/-- Settles O24: of the commands that name a context, three need it open and the other three do not. -/
theorem idleContextFaults : Obligations.IdleContextFaults := by
  constructor
  · rintro s c b i (rfl | rfl | rfl) he hc
    all_goals exact exec_sequence he rfl hc rfl
  · intro s t c b i hi hne hx h4
    have hn : needsOpen i = false := by obtain rfl | rfl | rfl := hi <;> rfl
    obtain ⟨cause, hcheck, hcode⟩ := exec_changes_ecause hx fun h => hne (h.symm.trans h4)
    obtain rfl : cause = .sequence := cause_code_injective (hcode.symm.trans h4)
    exact checkOf_ne_sequence hn hcheck

/-! ## The halted state -/

/-- While `ERR = 1` a word is discarded, whatever it is (60_exceptions.md R171). -/
theorem step_of_err {s : State} {w : CmdWord} (he : s.err = true) (hw : s.nextWord = some w) :
    step s = .next s.advancePc := by
  obtain ⟨t, hx⟩ := step_next s
  rw [hx]
  cases stepsTo_of_step hx with
  | idle hw' => rw [hw] at hw'; cases hw'
  | discard => rfl
  | fault _ _ _ he' => rw [he] at he'; cases he'
  | complete _ _ _ _ he' => rw [he] at he'; cases he'

theorem run_of_err (k : Nat) {s : State} (he : s.err = true) (hk : s.pc + k ≤ s.prog.length) :
    run k s = .next { s with pc := s.pc + k } := by
  induction k generalizing s with
  | zero => rfl
  | succ k ih =>
    have hw : s.nextWord = some s.prog[s.pc] := List.getElem?_eq_getElem (by omega)
    have hk' : s.pc + 1 + k ≤ s.prog.length := by omega
    rw [run_succ k s _ (step_of_err he hw), ih (s := s.advancePc) he hk', advancePc_pc, Nat.add_right_comm]
    rfl

/-- Settles O26: one word, then any number of words by induction. -/
theorem haltedEngineDiscardsEveryWord : Obligations.HaltedEngineDiscardsEveryWord :=
  ⟨fun _ _ => step_of_err, fun k _ => run_of_err k⟩

/-! ## The fault record -/

/-- Trap entry records what the fault was: the code of the first check that failed, and the word it failed on. -/
theorem trap_faultRecorded {s : State} {w : CmdWord} {cause : Cause} (h : causeOf w s = some cause) :
    (s.advancePc.trap cause w).FaultRecorded := by
  intro _
  obtain ⟨rfl, hd⟩ | ⟨rfl, hd⟩ | ⟨i, hd, hfail⟩ := causeOf_cases h
  · exact .inl ⟨rfl, hd⟩
  · exact .inr (.inl ⟨rfl, hd⟩)
  · cases hfail with
    | badContext c hi hc => exact .inr (.inr (.inl ⟨rfl, i, c, hd, hi, hc⟩))
    | sequence c hi hc hn ha => exact .inr (.inr (.inr ⟨rfl, i, c, hd, hi, hn, hc, ha⟩))

/-- The record is written by trap entry, and the halted state that it speaks of is frozen (60_exceptions.md R171). -/
theorem step_keeps_faultRecorded {s t : State} (h : s.FaultRecorded) (hx : step s = .next t) : t.FaultRecorded := by
  by_cases he : t.err = s.err
  · cases stepsTo_of_step hx with
    | idle => exact h
    | discard => exact h
    | fault _ _ _ hs => rw [hs] at he; cases he
    | complete _ _ _ _ hs => exact fun ht => absurd (ht.symm.trans (he.trans hs)) nofun
  · obtain ⟨w, cause, -, hcause, rfl⟩ := step_changes_err hx he
    exact trap_faultRecorded hcause

/-- The word 0x0000 is `NOP`, which has no fault to record. -/
theorem State.FaultRecorded.ecmd_ne_zero {s : State} (h : s.FaultRecorded) (he : s.err = true) :
    s.ecmd ≠ 0x0000#16 := by
  intro hzero
  have hnop : decode s.ecmd = .command .nop := hzero ▸ decode_encode .nop
  unfold State.FaultRecorded at h
  rw [hnop] at h
  obtain ⟨-, hd⟩ | ⟨-, hd⟩ | ⟨-, i, c, hd, hi, -⟩ | ⟨-, i, c, hd, hi, -⟩ := h he
  · cases hd
  · cases hd
  · cases hd; cases hi
  · cases hd; cases hi

/-- Settles O53: every step keeps the record, and a record speaks of no `NOP`. -/
theorem stepKeepsTheFaultRecord : Obligations.StepKeepsTheFaultRecord :=
  ⟨fun _ _ => step_keeps_faultRecorded, fun _ _ h hx => (step_keeps_faultRecorded h hx).ecmd_ne_zero⟩

end Sys2Proof.Machine
end

section
/-! PROOFS. The reset pin (70_reset_and_hazards.md R190, R192): what a step, an offer and the line `err` become at each
value of `rst`. The pin is an argument of the model's step and acceptance (notes/assumptions/11.md). -/

namespace Sys2Proof.Machine

@[simp] theorem resetOf_out (p : Params) : (State.resetOf p).out = [] := rfl

/-! ## In reset -/

/-- A reset asserted together with a command wins, whatever word stood next (60_exceptions.md R168). -/
@[simp] theorem stepUnder_true (s : State) : stepUnder true s = .next (State.resetOf s.params) := rfl

/-- In reset no transfer is accepted: the host still offers all that it offered. -/
@[simp] theorem acceptUnder_true (s : State) (o : Offer) :
    s.acceptUnder true o = (State.resetOf s.params, o) := rfl

@[simp] theorem errLine_true (s : State) : s.errLine true = false := rfl

/-! ## Out of reset -/

@[simp] theorem stepUnder_false (s : State) : stepUnder false s = step s := rfl

@[simp] theorem acceptUnder_false (s : State) (o : Offer) : s.acceptUnder false o = s.acceptOffer o := rfl

@[simp] theorem errLine_false (s : State) : s.errLine false = s.err := rfl

/-- Settles O35: both values of the pin, for the step, the offer and the line `err` in turn. -/
theorem resetPinWinsOverCommands : Obligations.ResetPinWinsOverCommands := fun s o =>
  ⟨stepUnder_true s, resetOf_out s.params, acceptUnder_true s o, errLine_true s,
    stepUnder_false s, acceptUnder_false s o, errLine_false s⟩

end Sys2Proof.Machine
end

section
/-! PROOFS. Words of 95_test_vectors.md section 2.1: a command's word is its encoding (30_encoding.md R80), and the
others are told by their opcode (R76) or by a must-be-zero field that is not zero (R77). -/

namespace Sys2Proof.Machine

/-- Settles O6: the nine commands by their encodings, the three other words by the rule each of them breaks. -/
theorem vectorWordsDecode : Obligations.VectorWordsDecode := by
  have command {w : CmdWord} {i : Instr} : encode i = w → decode w = .command i := (decode_eq_command_iff w i).2
  have init_imm : ReservedFieldSet 0x2001 := .inr (.inl (by decide))
  have trd_ctx : ReservedFieldSet 0x8100 := .inr (.inr (by decide))
  exact ⟨command rfl, command rfl, command rfl, command rfl, command rfl, command rfl, command rfl, command rfl,
    command rfl, decode_reservedField init_imm, decode_reservedField trd_ctx, decode_illegalOpcode (by decide)⟩

end Sys2Proof.Machine
end
